-- ==== Sys2Proof/Word.lean ====
section
/-! DEFINITION. The two value types of CRC32G: 32-bit register words (00_scope.md R9) and bytes (20_memory.md R70). -/

namespace Sys2Proof

/-- A 32-bit unsigned register value (00_scope.md R9, R16). -/
abbrev Word := BitVec 32

/-- One byte of data memory (20_memory.md R70). -/
abbrev Byte := BitVec 8

end Sys2Proof
end

