-- ==== Sys2Proof/Config.lean ====
section
/-! DEFINITION. The parameters of a CRC32G instance (00_scope.md R11, R12, 10_state.md R31). They are fixed for the
life of an instance. The step never changes them, and no statement may rest on the values `Config.default` names. -/

namespace Sys2Proof

/-- A run of data-memory addresses, from `base` up to and not including `base + size`. -/
structure Region where
  base : Nat
  size : Nat
deriving DecidableEq, Repr

/-- What the platform fixes. DESIGN CHOICE (log 1): a model instance is a state that carries its parameters, so a
statement about every state is a statement about every `MEM_SIZE` and every `REG_BASE`. -/
structure Config where
  /-- `MEM_SIZE`, the number of bytes of data memory (00_scope.md R11). -/
  memSize : Nat
  /-- `REG_BASE`, the host address of the register window (00_scope.md R12). -/
  regBase : Nat
  /-- The data-memory regions where the platform has placed a device with read side effects (20_memory.md R80). -/
  devices : List Region
deriving DecidableEq, Repr

/-- The parameters `State.reset` carries. DESIGN CHOICE (log 1): the spec leaves `MEM_SIZE` and `REG_BASE` open.
0x1000 is the size the vectors of 95_test_vectors.md use. -/
def Config.default : Config :=
  { memSize := 0x1000, regBase := 0, devices := [] }

/-- What a byte of data memory that nothing has listed reads as. DESIGN CHOICE (log 2): 20_memory.md gives no
power-up contents. The convention of 95_test_vectors.md is zero. -/
def unwrittenByte : Byte := 0x00#8

end Sys2Proof
end

