-- ==== Sys2Proof/Syntax.lean ====
section
/-! DEFINITION. The command set of CRC32G (00_scope.md R4), one constructor per row of spec/opcode_table.json. A
command word carries no operand (30_encoding.md R106), so no constructor has an argument. -/

namespace Sys2Proof

/-- The eight commands of revision CRC32G-r1 (00_scope.md R4, 30_encoding.md R105). -/
inductive Instr where
  /-- `CRC.BIT`: CRC-32 by the direct bitwise algorithm (40_crc.md R150). -/
  | crcBit
  /-- `CRC.NIB`: CRC-32 by the nibble table (40_crc.md R151). -/
  | crcNib
  /-- `CRC.BYTE`: CRC-32 by the byte table (40_crc.md R152). -/
  | crcByte
  /-- `CRC.S4`: CRC-32 by slicing-by-4 (40_crc.md R153). -/
  | crcS4
  /-- `CRC`: the canonical wrapper, slicing (40_crc.md R154). -/
  | crc
  /-- `CHUNK.CHK`: check the CRC of one PNG chunk (41_chunk_store.md R171). -/
  | chunkChk
  /-- `STORE.BE`: write `RESULT` big-endian (41_chunk_store.md R180). -/
  | storeBe
  /-- `STORE.LE`: write `RESULT` little-endian (41_chunk_store.md R181). -/
  | storeLe
deriving DecidableEq, Repr

end Sys2Proof
end

