-- ==== Sys2Proof/WellFormed.lean ====
section
/-! DEFINITION. The checks on what a model instance is built from: the commands (none can be ill formed, since a command has no
operand) and the parameters. The checks on command words are in Decode.lean. -/

namespace Sys2Proof

/-- Every command is well formed: the word carries no immediate, register number or address (30_encoding.md R106). -/
def Instr.wf : Instr → Bool
  | .crcBit => true
  | .crcNib => true
  | .crcByte => true
  | .crcS4 => true
  | .crc => true
  | .chunkChk => true
  | .storeBe => true
  | .storeLe => true

/-- `MEM_SIZE` is from 1 to 2^32 (00_scope.md R11). -/
def Config.memSizeOk (c : Config) : Bool :=
  decide (1 ≤ c.memSize) && decide (c.memSize ≤ 2 ^ 32)

/-- `REG_BASE` is a multiple of 256 (00_scope.md R12). -/
def Config.regBaseOk (c : Config) : Bool :=
  c.regBase % 256 == 0

/-- The parameters are in the ranges the spec gives them. -/
def Config.wf (c : Config) : Bool :=
  c.memSizeOk && c.regBaseOk

end Sys2Proof
end

