-- ==== Sys2Proof/Decode.lean ====
section
/-! DEFINITION. Decoding and encoding of command words (30_encoding.md). A command is one 32-bit word (R100), so there is no length
decision (R108). `decode` is total: a word is one command or illegal (R104). -/

namespace Sys2Proof

/-- The field OP, bits 7 to 0 (30_encoding.md R101). -/
def opField (w : Word) : BitVec 8 := w.extractLsb' 0 8

/-- The field ORD, bit 8 (30_encoding.md R101, R102). -/
def ordField (w : Word) : BitVec 1 := w.extractLsb' 8 1

/-- The field RSV, bits 31 to 9 (30_encoding.md R101, R103). -/
def rsvField (w : Word) : BitVec 23 := w.extractLsb' 9 23

/-- One row of the opcode map (30_encoding.md R105): a word `w` is the row's command when `w &&& mask = pattern`. -/
structure OpcodeRow where
  mask : Word
  pattern : Word
  instr : Instr
deriving DecidableEq, Repr

/-- The opcode map (30_encoding.md R105); every row has mask `0xFFFFFFFF` (R104). -/
def opcodeTable : List OpcodeRow :=
  [ ⟨0xFFFFFFFF#32, 0x00000001#32, .crcBit⟩,
    ⟨0xFFFFFFFF#32, 0x00000002#32, .crcNib⟩,
    ⟨0xFFFFFFFF#32, 0x00000003#32, .crcByte⟩,
    ⟨0xFFFFFFFF#32, 0x00000004#32, .crcS4⟩,
    ⟨0xFFFFFFFF#32, 0x00000005#32, .crc⟩,
    ⟨0xFFFFFFFF#32, 0x00000010#32, .chunkChk⟩,
    ⟨0xFFFFFFFF#32, 0x00000020#32, .storeBe⟩,
    ⟨0xFFFFFFFF#32, 0x00000120#32, .storeLe⟩ ]

/-- Whether `w` is the command of the row `r`. -/
def OpcodeRow.covers (r : OpcodeRow) (w : Word) : Bool :=
  w &&& r.mask == r.pattern

/-- The command a word stands for, or `none` where it is illegal (30_encoding.md R104, R107). -/
def decode (w : Word) : Option Instr :=
  (opcodeTable.find? (fun r => r.covers w)).map (fun r => r.instr)

/-- The OP value of a command (30_encoding.md R105). -/
def opOf : Instr → BitVec 8
  | .crcBit => 0x01#8
  | .crcNib => 0x02#8
  | .crcByte => 0x03#8
  | .crcS4 => 0x04#8
  | .crc => 0x05#8
  | .chunkChk => 0x10#8
  | .storeBe => 0x20#8
  | .storeLe => 0x20#8

/-- The ORD value of a command: 1 only for the little-endian store (30_encoding.md R102). -/
def ordOf : Instr → BitVec 1
  | .crcBit => 0#1
  | .crcNib => 0#1
  | .crcByte => 0#1
  | .crcS4 => 0#1
  | .crc => 0#1
  | .chunkChk => 0#1
  | .storeBe => 0#1
  | .storeLe => 1#1

/-- The word of a command, put together from its fields RSV, ORD and OP (30_encoding.md R101, R103). -/
def encode (i : Instr) : Word :=
  (0#23 ++ ordOf i) ++ opOf i

/-- The OP values in use (30_encoding.md R105). -/
def usedOps : List (BitVec 8) := [0x01#8, 0x02#8, 0x03#8, 0x04#8, 0x05#8, 0x10#8, 0x20#8]

/-- RSV is 0 (30_encoding.md R103). -/
def wordRsvOk (w : Word) : Bool := rsvField w == 0#23

/-- ORD is 0 for every operation but the store (30_encoding.md R102). -/
def wordOrdOk (w : Word) : Bool := ordField w == 0#1 || opField w == 0x20#8

/-- OP is one of the values in use (30_encoding.md R107 (a) and (b)). -/
def wordOpOk (w : Word) : Bool := usedOps.contains (opField w)

/-- The field checks of a legal command word (30_encoding.md R107). -/
def wordWf (w : Word) : Bool := wordRsvOk w && wordOrdOk w && wordOpOk w

/-- The host's entry: the instruction read from an instruction of `nbits` bits numbered as spec/opcode_table.json numbers
them. A command has exactly one 32-bit word (30_encoding.md R100), so a set bit above bit 31 is no command. -/
def decodeTableWord (nbits w : Nat) : Option Instr :=
  if w % 2 ^ nbits < 2 ^ 32 then decode (BitVec.ofNat 32 (w % 2 ^ nbits)) else none

end Sys2Proof
end

