-- ==== Sys2Proof/Machine/State.lean ====
section
/-! DEFINITION. The state of CRC32G as plain data: the register window (10_state.md R36), the data memory (20_memory.md
R70), the parameters, and the model's own record of the host's accesses (70_reset_and_hazards.md R255). -/

namespace Sys2Proof.Machine

/-- Data memory as its listed bytes, addresses strictly rising, no byte equal to `unwrittenByte`; an unlisted address
reads `unwrittenByte` (log 2). -/
abbrev Memory := List Host.Cell

/-- The width of one host access to the register window. Only `word` is defined (10_state.md R52; log 7). -/
inductive AccessWidth where
  | byte
  | half
  | word
  | double
deriving DecidableEq, Repr

/-- What the world outside does to CRC32G (70_reset_and_hazards.md R255). Where the spec leaves a value free (power-up
contents, which bytes of an interrupted store landed) the event carries it, and nothing constrains it. -/
inductive HostEvent where
  /-- The host writes `value` at host address `addr`. -/
  | regWrite (addr : Nat) (width : AccessWidth) (value : Word)
  /-- The host reads at host address `addr`. -/
  | regRead (addr : Nat) (width : AccessWidth)
  /-- The host, or another bus master, writes `bytes` to data memory from `addr` upward. -/
  | dataWrite (addr : Nat) (bytes : List Byte)
  /-- The host reads `count` bytes of data memory from `addr` upward. -/
  | dataRead (addr count : Nat)
  /-- The platform asserts reset while no command is executing (70_reset_and_hazards.md R230). -/
  | reset
  /-- Power-up: reset, with data memory holding `contents` (any bytes, R230; log 13). -/
  | powerUp (contents : List Host.Cell)
  /-- The host writes `word` to `CMD` and a reset arrives while the command executes (70_reset_and_hazards.md R231).
  `landed0` to `landed3` say which of a store's four bytes hold their new value (any choice; log 12). -/
  | resetDuring (word : Word) (landed0 landed1 landed2 landed3 : Bool)
deriving DecidableEq, Repr

/-- What the host gets back for a read (70_reset_and_hazards.md R255). -/
inductive Reply where
  /-- The value of a register read. -/
  | word (value : Word)
  /-- The bytes of a data-memory read, lowest address first. -/
  | bytes (data : List Byte)
deriving DecidableEq, Repr

/-- The whole machine. `CMD` keeps no value (10_state.md R37; log 14) and so has no field. -/
structure State where
  /-- `STATUS`, offset 0x04 (10_state.md R46). -/
  status : Word
  /-- `SEED`, offset 0x08 (10_state.md R38). -/
  seed : Word
  /-- `ADDR`, offset 0x0C (10_state.md R39). -/
  addr : Word
  /-- `LEN`, offset 0x10 (10_state.md R40). -/
  len : Word
  /-- `RESULT`, offset 0x14 (10_state.md R41). -/
  result : Word
  /-- `CHUNK_LEN`, offset 0x18 (10_state.md R42). -/
  chunkLen : Word
  /-- `CHUNK_TYPE`, offset 0x1C (10_state.md R43). -/
  chunkType : Word
  /-- `CHUNK_CRC`, offset 0x20 (10_state.md R44). -/
  chunkCrc : Word
  /-- `CHUNK_NEXT`, offset 0x24 (10_state.md R45). -/
  chunkNext : Word
  /-- The data memory (20_memory.md R70). -/
  mem : Memory
  /-- The parameters of the instance (10_state.md R31). No step changes them. -/
  config : Config
  /-- The model's own: what the world outside will do next, first event first (log 3). -/
  pending : List HostEvent
  /-- The model's own: what the host has got back for its reads, newest first (log 4). -/
  replies : List Reply
deriving DecidableEq, Repr

/-- Why the machine stops with a fault. -/
inductive Fault where
  /-- Raised by a host access to data memory that reaches an address at or above `MEM_SIZE`: "There is no address at or
  above `MEM_SIZE`" (20_memory.md R70; log 9). Safe: the model stops. No command raises it. -/
  | noSuchDataAddress
deriving DecidableEq, Repr

/-- Why the machine gives an access no meaning. -/
inductive Refusal where
  /-- Raised by an arm of `exec` whose instruction has no meaning yet; no arm is left that raises it. Safe. -/
  | notModelled (mnemonic : String)
  /-- Raised by a host access to the window of another width than 32 bits or not naturally aligned: "a model refuses it"
  (10_state.md R52). Safe. -/
  | subWordOrMisaligned
  /-- Raised by a host register access at an address that is not in the window: what the platform maps there is left to
  it (20_memory.md R81; log 6). Safe. -/
  | outsideWindow
  /-- Raised by an access whose range holds a device with read side effects: "a model refuses it" (20_memory.md R80;
  log 8). Safe. -/
  | readSensitiveDevice
deriving DecidableEq, Repr

/-- The machine right after reset: every window register 0 (10_state.md R60, 70_reset_and_hazards.md R230). The memory
lists nothing (log 2), the parameters are `Config.default` (log 1) and no access is outstanding (log 3, log 4). -/
def State.reset : State :=
  { status := 0x00000000#32
    seed := 0x00000000#32
    addr := 0x00000000#32
    len := 0x00000000#32
    result := 0x00000000#32
    chunkLen := 0x00000000#32
    chunkType := 0x00000000#32
    chunkCrc := 0x00000000#32
    chunkNext := 0x00000000#32
    mem := []
    config := Config.default
    pending := []
    replies := [] }

end Sys2Proof.Machine
end

