-- ==== Sys2Proof/Machine/Operands.lean ====
section
/-! DEFINITION. Byte orders (00_scope.md R20) and the range checks of 20_memory.md R74. A command's operands are registers
(30_encoding.md R106). Its only operand forms are a byte range of data memory and a four-byte field. -/

namespace Sys2Proof.Machine

/-- `zext_32(b)` (00_scope.md R16). -/
def zext32 (b : Byte) : Word := b.setWidth 32

/-- `be32([b0, b1, b2, b3])` (00_scope.md R20). -/
def be32 (b0 b1 b2 b3 : Byte) : Word :=
  zext32 b0 <<< 24 ||| zext32 b1 <<< 16 ||| zext32 b2 <<< 8 ||| zext32 b3

/-- `le32([b0, b1, b2, b3])` (00_scope.md R20). -/
def le32 (b0 b1 b2 b3 : Byte) : Word :=
  zext32 b3 <<< 24 ||| zext32 b2 <<< 16 ||| zext32 b1 <<< 8 ||| zext32 b0

/-- `bytes_be(v)` (00_scope.md R20). -/
def bytesBe (v : Word) : List Byte :=
  [v.extractLsb' 24 8, v.extractLsb' 16 8, v.extractLsb' 8 8, v.extractLsb' 0 8]

/-- `bytes_le(v)` (00_scope.md R20). -/
def bytesLe (v : Word) : List Byte :=
  [v.extractLsb' 0 8, v.extractLsb' 8 8, v.extractLsb' 16 8, v.extractLsb' 24 8]

/-- Whether `count` bytes from `addr` upward lie below `MEM_SIZE`, as exact integers (20_memory.md R74). -/
def inRange (c : Config) (addr count : Nat) : Bool :=
  decide (addr + count ≤ c.memSize)

/-- Whether one of the `count` addresses from `addr` upward lies in the region `r`. -/
def overlaps (r : Region) (addr count : Nat) : Bool :=
  decide (max addr r.base < min (addr + count) (r.base + r.size))

/-- Whether the platform has placed a device with read side effects among the `count` addresses from `addr` upward
(20_memory.md R80; DEDUCED, log 8). -/
def deviceInRange (c : Config) (addr count : Nat) : Bool :=
  c.devices.any (fun r => overlaps r addr count)

end Sys2Proof.Machine
end

