-- ==== Sys2Proof/Machine/CrcAlg.lean ====
section
/-! DEFINITION. The CRC-32 function (40_crc.md R130, R131) and the four algorithms, each with the loop body and the tables 40_crc.md R145
gives it (log 15). That they agree (R146) is a statement about this file, not a part of it. -/

namespace Sys2Proof.Machine

/-- `POLY` (00_scope.md R10). -/
def poly : Word := 0xEDB88320#32

/-- `step(c)` (40_crc.md R130). -/
def stepBit (c : Word) : Word :=
  if c.getLsbD 0 then (c >>> 1) ^^^ poly else c >>> 1

/-- `shift(c, n)`: `step` applied `n` times (40_crc.md R130). -/
def shiftBits (c : Word) : Nat → Word
  | 0 => c
  | n + 1 => shiftBits (stepBit c) n

/-- The body of the loop of `Crc32` (40_crc.md R131). -/
def crcByteStep (c : Word) (b : Byte) : Word := shiftBits (c ^^^ zext32 b) 8

/-- `Crc32(d, seed)`, the function every command computes (40_crc.md R131; the start value is `~seed`, 90_conflicts.md C1). -/
def crc32 (d : List Byte) (seed : Word) : Word :=
  ~~~ (d.foldl crcByteStep (~~~ seed))

/-- Bitwise loop body: the byte is added, then `step` eight times (40_crc.md R145). -/
def bitwiseBody (c : Word) (b : Byte) : Word :=
  let x := c ^^^ zext32 b
  stepBit (stepBit (stepBit (stepBit (stepBit (stepBit (stepBit (stepBit x)))))))

/-- One half of the nibble loop body (40_crc.md R145). -/
def nibbleHalf (c : Word) : Word := (c >>> 4) ^^^ t4 (c &&& 0xF#32).toNat

/-- Nibble loop body (40_crc.md R145). -/
def nibbleBody (c : Word) (b : Byte) : Word := nibbleHalf (nibbleHalf (c ^^^ zext32 b))

/-- Byte loop body, also the tail of the slicing loop (40_crc.md R145). -/
def byteBody (c : Word) (b : Byte) : Word :=
  (c >>> 8) ^^^ t8 ((c ^^^ zext32 b) &&& 0xFF#32).toNat

/-- The slicing loop's step over four bytes, the lowest address in bits 7 to 0 (40_crc.md R145). -/
def sliceBody (c : Word) (b0 b1 b2 b3 : Byte) : Word :=
  let x := c ^^^ le32 b0 b1 b2 b3
  s3 (x.extractLsb' 0 8).toNat ^^^ s2 (x.extractLsb' 8 8).toNat ^^^
    s1 (x.extractLsb' 16 8).toNat ^^^ t8 (x.extractLsb' 24 8).toNat

/-- The slicing loop: groups of four bytes of the sequence, then 0 to 3 tail bytes (40_crc.md R145). -/
def sliceLoop (c : Word) : List Byte → Word
  | b0 :: b1 :: b2 :: b3 :: rest => sliceLoop (sliceBody c b0 b1 b2 b3) rest
  | tail => tail.foldl byteBody c

/-- The four algorithms (00_scope.md R3, R14). -/
inductive CrcAlg where
  | bitwise
  | nibble
  | byte
  | slicing
deriving DecidableEq, Repr

/-- The loop of an algorithm from the accumulator `c` (40_crc.md R145). -/
def CrcAlg.loop : CrcAlg → Word → List Byte → Word
  | .bitwise, c, d => d.foldl bitwiseBody c
  | .nibble, c, d => d.foldl nibbleBody c
  | .byte, c, d => d.foldl byteBody c
  | .slicing, c, d => sliceLoop c d

/-- `Crc32_alg(d, seed)`: start `~seed` and finish `~c` are the same in all four (40_crc.md R145). -/
def crcBy (alg : CrcAlg) (d : List Byte) (seed : Word) : Word :=
  ~~~ (alg.loop (~~~ seed) d)

end Sys2Proof.Machine
end

