-- ==== Sys2Proof/Machine/Flags.lean ====
section
/-! DEFINITION. The fields of `STATUS` (10_state.md R46 to R50, R53), the error codes (60_exceptions.md R201) and the one operation by
which each field is written. CRC32G has no other flag, and no command reads one (10_state.md R53). -/

namespace Sys2Proof.Machine

/-- The outcomes `STATUS.ERRCODE` reports (60_exceptions.md R201); the codes 4 to 15 are never produced. -/
inductive ErrCode where
  /-- 0: the command succeeded. -/
  | none
  /-- 1: the word written to `CMD` is not in the opcode table. -/
  | illegalCmd
  /-- 2: the command's data-memory range does not fit below `MEM_SIZE`. -/
  | range
  /-- 3: the computed CRC of a chunk differs from its stored CRC field. -/
  | crcMismatch
deriving DecidableEq, Repr

/-- The code of an outcome (60_exceptions.md R201). -/
def ErrCode.code : ErrCode → BitVec 4
  | .none => 0#4
  | .illegalCmd => 1#4
  | .range => 2#4
  | .crcMismatch => 3#4

/-- `STATUS.ERRCODE`, bits 3 to 0 (10_state.md R46). -/
def errCodeOf (st : Word) : BitVec 4 := st.extractLsb' 0 4

/-- `STATUS.ERR_STICKY`, bit 8 (10_state.md R46). -/
def errStickyOf (st : Word) : Bool := st.getLsbD 8

/-- `STATUS.RES_VALID`, bit 16 (10_state.md R46). -/
def resValidOf (st : Word) : Bool := st.getLsbD 16

/-- `STATUS.CHUNK_VALID`, bit 17 (10_state.md R46). -/
def chunkValidOf (st : Word) : Bool := st.getLsbD 17

/-- The bits of `STATUS` that are a field; every other bit is reserved and reads 0 (10_state.md R46). -/
def statusFieldMask : Word := 0x0003010F#32

/-- `reg[STATUS].ERRCODE <- e` (10_state.md R47). -/
def setErrCode (e : ErrCode) (st : Word) : Word :=
  (st &&& 0xFFFFFFF0#32) ||| e.code.setWidth 32

/-- `reg[STATUS].ERR_STICKY <- 1` (10_state.md R48). -/
def setErrSticky (st : Word) : Word := st ||| 0x00000100#32

/-- `reg[STATUS].ERR_STICKY <- 0` (10_state.md R48). -/
def clearErrSticky (st : Word) : Word := st &&& 0xFFFFFEFF#32

/-- `reg[STATUS].RES_VALID <- 1` (10_state.md R49). -/
def setResValid (st : Word) : Word := st ||| 0x00010000#32

/-- `reg[STATUS].CHUNK_VALID <- 1` (10_state.md R50). -/
def setChunkValid (st : Word) : Word := st ||| 0x00020000#32

/-- A host write of `v` to `STATUS`: bit 8 clears `ERR_STICKY`, nothing else changes (10_state.md R48). -/
def statusAfterHostWrite (v st : Word) : Word :=
  if v.getLsbD 8 then clearErrSticky st else st

/-- `STATUS` holds 0 in its reserved bits and an error code that is produced (10_state.md R46). -/
def statusLegal (st : Word) : Bool :=
  st &&& 0xFFFCFEFC#32 == 0#32

end Sys2Proof.Machine
end

