-- ==== Sys2Proof/Machine/Ops.lean ====
section
/-! DEFINITION. The named operations over data memory (20_memory.md) and the register window (10_state.md), and `raise`, the one
operation that ends a command with an error (60_exceptions.md R205). CRC32G has no trap to enter and none to return
from (60_exceptions.md R200, R212, R214). -/

namespace Sys2Proof.Machine

/-! ### Data memory -/

/-- The byte at address `a`; an unlisted one reads `unwrittenByte` (20_memory.md R70, log 2). -/
def Memory.read (m : Memory) (a : Nat) : Byte :=
  match m with
  | [] => unwrittenByte
  | (k, v) :: rest => if k = a then v else Memory.read rest a

/-- The memory with no entry for `a`. -/
def Memory.without (m : Memory) (a : Nat) : Memory :=
  m.filter (fun c => c.1 != a)

/-- The memory with an entry for `a` put before the first higher address. -/
def Memory.place (m : Memory) (a : Nat) (b : Byte) : Memory :=
  match m with
  | [] => [(a, b)]
  | (k, v) :: rest =>
    if a < k then (a, b) :: (k, v) :: rest else (k, v) :: Memory.place rest a b

/-- Write one byte, keeping the canonical form: the value an unlisted address reads as is not listed. -/
def Memory.write (m : Memory) (a : Nat) (b : Byte) : Memory :=
  if b = unwrittenByte then m.without a else (m.without a).place a b

/-- `MemRead(a, n)`: `n` bytes in increasing address order (00_scope.md R19, 20_memory.md R78). -/
def Memory.readBytes (m : Memory) (a : Nat) : Nat → List Byte
  | 0 => []
  | n + 1 => m.read a :: Memory.readBytes m (a + 1) n

/-- `MemWrite(a, n, s)`: the first byte at `a`, increasing addresses (00_scope.md R19). -/
def Memory.writeBytes (m : Memory) (a : Nat) : List Byte → Memory
  | [] => m
  | b :: rest => Memory.writeBytes (m.write a b) (a + 1) rest

/-- `MemWrite` of which only the marked bytes have landed (70_reset_and_hazards.md R231, log 12). -/
def Memory.writeLanded (m : Memory) (a : Nat) : List (Byte × Bool) → Memory
  | [] => m
  | (b, landed) :: rest =>
    Memory.writeLanded (if landed then m.write a b else m) (a + 1) rest

/-- The four bytes at `a`, read big-endian (00_scope.md R20, 20_memory.md R73). -/
def Memory.readBe32 (m : Memory) (a : Nat) : Word :=
  be32 (m.read a) (m.read (a + 1)) (m.read (a + 2)) (m.read (a + 3))

/-- The canonical form: addresses strictly rising, and no entry equal to what an unlisted address reads as. -/
def Memory.wf : Memory → Bool
  | [] => true
  | (k, v) :: rest =>
    v != unwrittenByte && rest.all (fun c => decide (k < c.1)) && Memory.wf rest

/-- Every listed address is below `n`: there is no address at or above `MEM_SIZE` (20_memory.md R70). -/
def Memory.below (m : Memory) (n : Nat) : Bool :=
  m.all (fun c => decide (c.1 < n))

/-- The memory of `n` bytes that holds `cells` (a later cell of the same address wins). -/
def Memory.ofCells (n : Nat) (cells : List Host.Cell) : Memory :=
  cells.foldl (fun m c => if c.1 < n then m.write c.1 c.2 else m) []

/-! ### The register window -/

/-- The ten registers of the window (10_state.md R36). -/
inductive RegName where
  | cmd
  | status
  | seed
  | addr
  | len
  | result
  | chunkLen
  | chunkType
  | chunkCrc
  | chunkNext
deriving DecidableEq, Repr

/-- The register at a byte offset of the window, or `none` where the offset is reserved (10_state.md R36, R51). -/
def regAt (offset : Nat) : Option RegName :=
  match offset with
  | 0x00 => some .cmd
  | 0x04 => some .status
  | 0x08 => some .seed
  | 0x0C => some .addr
  | 0x10 => some .len
  | 0x14 => some .result
  | 0x18 => some .chunkLen
  | 0x1C => some .chunkType
  | 0x20 => some .chunkCrc
  | 0x24 => some .chunkNext
  | _ => none

/-- What a host read of a register returns. `CMD` reads 0 (10_state.md R37); reserved bits of `STATUS` read 0 (R46). -/
def readReg (r : RegName) (s : State) : Word :=
  match r with
  | .cmd => 0x00000000#32
  | .status => s.status &&& statusFieldMask
  | .seed => s.seed
  | .addr => s.addr
  | .len => s.len
  | .result => s.result
  | .chunkLen => s.chunkLen
  | .chunkType => s.chunkType
  | .chunkCrc => s.chunkCrc
  | .chunkNext => s.chunkNext

/-- A host read at an offset: a reserved offset reads 0 (10_state.md R51). -/
def readOffset (offset : Nat) (s : State) : Word :=
  match regAt offset with
  | some r => readReg r s
  | none => 0x00000000#32

/-- The effect of a host write of `v` to a register other than `CMD`, whose write is a command. Read-only registers ignore
it (10_state.md R36, R38 to R40, R48, R51). -/
def writeReg (r : RegName) (v : Word) (s : State) : State :=
  match r with
  | .cmd => s
  | .status => { s with status := statusAfterHostWrite v s.status }
  | .seed => { s with seed := v }
  | .addr => { s with addr := v }
  | .len => { s with len := v }
  | .result => s
  | .chunkLen => s
  | .chunkType => s
  | .chunkCrc => s
  | .chunkNext => s

/-- Reset of the window: every register 0, data memory untouched (10_state.md R60, 70_reset_and_hazards.md R230). The
parameters and the model's own fields stay (log 17). -/
def resetRegisters (s : State) : State :=
  { s with
    status := 0x00000000#32
    seed := 0x00000000#32
    addr := 0x00000000#32
    len := 0x00000000#32
    result := 0x00000000#32
    chunkLen := 0x00000000#32
    chunkType := 0x00000000#32
    chunkCrc := 0x00000000#32
    chunkNext := 0x00000000#32 }

/-! ### How a command ends -/

/-- `raise E` (00_scope.md R21, 60_exceptions.md R205): `ERRCODE` takes the code, `ERR_STICKY` is set, nothing else changes. -/
def raise (e : ErrCode) (s : State) : State :=
  { s with status := setErrSticky (setErrCode e s.status) }

/-- A command's success: `reg[STATUS].ERRCODE <- NONE` (10_state.md R47). -/
def succeed (s : State) : State :=
  { s with status := setErrCode .none s.status }

/-- A command writes `RESULT` and with it sets `RES_VALID` (10_state.md R41, R49). -/
def writeResult (v : Word) (s : State) : State :=
  { s with result := v, status := setResValid s.status }

/-- The body `k` of a command over the `count` bytes of data memory from `a` upward, behind the checks on that range: `RANGE`
where it does not fit (20_memory.md R74), the refusal where a read-sensitive device lies in it (R80; log 8). -/
def overRange (a count : Nat) (s : State) (k : Host.Outcome State Fault Refusal) :
    Host.Outcome State Fault Refusal :=
  if inRange s.config a count then
    if deviceInRange s.config a count then .refused .readSensitiveDevice else k
  else .next (raise .range s)

end Sys2Proof.Machine
end

