-- ==== Sys2Proof/Machine/ChunkCheck.lean ====
section
/-! DEFINITION. The chunk check `CHUNK.CHK` (41_chunk_store.md R170 to R174). -/

namespace Sys2Proof.Machine

/-- The value `L` of the length field of the chunk at `a` (41_chunk_store.md R170). -/
def chunkLength (m : Memory) (a : Nat) : Word := m.readBe32 a

/-- The CRC of the chunk at `a` over its type tag and its payload of `len` bytes, the seed of the payload being the CRC of
the tag, by the default algorithm (41_chunk_store.md R171; log 15). -/
def chunkComputedCrc (m : Memory) (a len : Nat) : Word :=
  crcBy .slicing (m.readBytes (a + 8) len) (crcBy .slicing (m.readBytes (a + 4) 4) 0#32)

/-- The CRC stored in the chunk at `a` (41_chunk_store.md R170). -/
def chunkStoredCrc (m : Memory) (a len : Nat) : Word := m.readBe32 (a + 8 + len)

/-- The register writes of a chunk check that has got past its range checks (41_chunk_store.md R171). -/
def writeChunk (a : Nat) (l : Word) (s : State) : State :=
  { s with
    chunkLen := l
    chunkType := s.mem.readBe32 (a + 4)
    chunkCrc := chunkStoredCrc s.mem a l.toNat
    chunkNext := BitVec.ofNat 32 (a + 12 + l.toNat)
    result := chunkComputedCrc s.mem a l.toNat
    status := setChunkValid (setResValid s.status) }

/-- `CHUNK.CHK` (41_chunk_store.md R171). The header's range is checked before the length field is read, the rest of the
chunk after (R210, 90_conflicts.md C8). On a mismatch the writes stay (60_exceptions.md R205). -/
def execChunkChk (s : State) : Host.Outcome State Fault Refusal :=
  let a := s.addr.toNat
  overRange a 8 s <|
    let l := chunkLength s.mem a
    overRange a (12 + l.toNat) s <|
      let t := writeChunk a l s
      .next (if t.result = t.chunkCrc then succeed t else raise .crcMismatch t)

end Sys2Proof.Machine
end

