-- ==== Sys2Proof/Machine/CrcFamily.lean ====
section
/-! DEFINITION. The CRC family (40_crc.md R149 to R155). -/

namespace Sys2Proof.Machine

/-- `CrcCommand(alg)`, the shared body of the family (40_crc.md R149). -/
def crcCommand (alg : CrcAlg) (s : State) : Host.Outcome State Fault Refusal :=
  let a := s.addr.toNat
  let n := s.len.toNat
  overRange a n s (.next (succeed (writeResult (crcBy alg (s.mem.readBytes a n) s.seed) s)))

/-- `CRC.BIT` (40_crc.md R150). -/
def execCrcBit (s : State) : Host.Outcome State Fault Refusal := crcCommand .bitwise s

/-- `CRC.NIB` (40_crc.md R151). -/
def execCrcNib (s : State) : Host.Outcome State Fault Refusal := crcCommand .nibble s

/-- `CRC.BYTE` (40_crc.md R152). -/
def execCrcByte (s : State) : Host.Outcome State Fault Refusal := crcCommand .byte s

/-- `CRC.S4` (40_crc.md R153). -/
def execCrcS4 (s : State) : Host.Outcome State Fault Refusal := crcCommand .slicing s

/-- `CRC`, the canonical wrapper: the default algorithm is slicing (40_crc.md R154). -/
def execCrc (s : State) : Host.Outcome State Fault Refusal := crcCommand .slicing s

end Sys2Proof.Machine
end

