-- ==== Sys2Proof/Machine/ResultStore.lean ====
section
/-! DEFINITION. The result store `STORE.BE` and `STORE.LE` (41_chunk_store.md R180, R181). -/

namespace Sys2Proof.Machine

/-- The shared body of the stores: the four bytes `data` to `ADDR` (41_chunk_store.md R180). `RES_VALID` is neither read nor written. -/
def storeCommand (data : List Byte) (s : State) : Host.Outcome State Fault Refusal :=
  let a := s.addr.toNat
  overRange a 4 s (.next (succeed { s with mem := s.mem.writeBytes a data }))

/-- `STORE.BE` (41_chunk_store.md R180). -/
def execStoreBe (s : State) : Host.Outcome State Fault Refusal := storeCommand (bytesBe s.result) s

/-- `STORE.LE` (41_chunk_store.md R181). -/
def execStoreLe (s : State) : Host.Outcome State Fault Refusal := storeCommand (bytesLe s.result) s

end Sys2Proof.Machine
end

