-- ==== Sys2Proof/Machine/Dispatch.lean ====
section
/-! DEFINITION. One arm per command: each is one call of its meaning. -/

namespace Sys2Proof.Machine

def exec (i : Instr) (s : State) : Host.Outcome State Fault Refusal :=
  match i with
  | .crcBit => Sys2Proof.Machine.execCrcBit s
  | .crcNib => Sys2Proof.Machine.execCrcNib s
  | .crcByte => Sys2Proof.Machine.execCrcByte s
  | .crcS4 => Sys2Proof.Machine.execCrcS4 s
  | .crc => Sys2Proof.Machine.execCrc s
  | .chunkChk => Sys2Proof.Machine.execChunkChk s
  | .storeBe => Sys2Proof.Machine.execStoreBe s
  | .storeLe => Sys2Proof.Machine.execStoreLe s

end Sys2Proof.Machine
end

