-- ==== Sys2Proof/Machine/HostPort.lean ====
section
/-! DEFINITION. What the world outside can do to CRC32G (70_reset_and_hazards.md R255, R230, R231), one event at a time. -/

namespace Sys2Proof.Machine

/-- A write of `w` to `CMD`: decode and execute in one step; an illegal word raises `ILLEGAL_CMD` before any operand is read
(10_state.md R37, 30_encoding.md R104, 60_exceptions.md R210). -/
def issueCommand (w : Word) (s : State) : Host.Outcome State Fault Refusal :=
  match decode w with
  | some i => exec i s
  | none => .next (raise .illegalCmd s)

/-- The effect of a host write of `v` at a byte offset of the window; a reserved offset ignores it (10_state.md R51). -/
def writeOffset (offset : Nat) (v : Word) (s : State) : Host.Outcome State Fault Refusal :=
  match regAt offset with
  | some .cmd => issueCommand v s
  | some r => .next (writeReg r v s)
  | none => .next s

/-- Whether a host address lies in the 256-byte window at `REG_BASE` (10_state.md R36). -/
def inWindow (c : Config) (addr : Nat) : Bool :=
  decide (c.regBase ≤ addr) && decide (addr - c.regBase < 256)

/-- Whether an access at a byte offset of the window is a naturally aligned 32-bit one (10_state.md R52). -/
def wordAccess (offset : Nat) (width : AccessWidth) : Bool :=
  width == .word && offset % 4 == 0

/-- The body `k` of a host access to the window, given the byte offset, behind the checks on address and width: outside the
window the platform decides (20_memory.md R81; log 6), and another width or alignment is refused (10_state.md R52). -/
def overWindow (addr : Nat) (width : AccessWidth) (s : State)
    (k : Nat → Host.Outcome State Fault Refusal) : Host.Outcome State Fault Refusal :=
  if inWindow s.config addr then
    if wordAccess (addr - s.config.regBase) width then k (addr - s.config.regBase)
    else .refused .subWordOrMisaligned
  else .refused .outsideWindow

/-- A host write to a register (70_reset_and_hazards.md R255). -/
def hostRegWrite (addr : Nat) (width : AccessWidth) (v : Word) (s : State) :
    Host.Outcome State Fault Refusal :=
  overWindow addr width s (fun offset => writeOffset offset v s)

/-- A host read of a register: no side effect, the host gets the value back (10_state.md R51, R255). -/
def hostRegRead (addr : Nat) (width : AccessWidth) (s : State) : Host.Outcome State Fault Refusal :=
  overWindow addr width s
    (fun offset => .next { s with replies := .word (readOffset offset s) :: s.replies })

/-- The body `k` of a host access to `count` bytes of data memory from `a` upward: an address that does not exist faults
(20_memory.md R70; log 9), a read-sensitive device is refused (R80; log 8). -/
def overData (a count : Nat) (s : State) (k : Host.Outcome State Fault Refusal) :
    Host.Outcome State Fault Refusal :=
  if inRange s.config a count then
    if deviceInRange s.config a count then .refused .readSensitiveDevice else k
  else .fault .noSuchDataAddress

/-- A write of bytes to data memory; CRC32G does nothing (70_reset_and_hazards.md R255). -/
def hostDataWrite (a : Nat) (data : List Byte) (s : State) : Host.Outcome State Fault Refusal :=
  overData a data.length s (.next { s with mem := s.mem.writeBytes a data })

/-- A host read of bytes of data memory (70_reset_and_hazards.md R255). -/
def hostDataRead (a count : Nat) (s : State) : Host.Outcome State Fault Refusal :=
  overData a count s (.next { s with replies := .bytes (s.mem.readBytes a count) :: s.replies })

/-- The four bytes a command writes at `ADDR`, or `none` for a command that writes no data memory (20_memory.md R71). -/
def storedBytes (i : Instr) (v : Word) : Option (List Byte) :=
  match i with
  | .crcBit => none
  | .crcNib => none
  | .crcByte => none
  | .crcS4 => none
  | .crc => none
  | .chunkChk => none
  | .storeBe => some (bytesBe v)
  | .storeLe => some (bytesLe v)

/-- Data memory after a reset has abandoned the command `w`: each target byte of a store that fits holds its new value where
it has landed and its old value elsewhere; every other command changes no byte (70_reset_and_hazards.md R231; log 12). -/
def memAfterAbandon (w : Word) (landed : List Bool) (s : State) : Memory :=
  match (decode w).bind (fun i => storedBytes i s.result) with
  | some data =>
    if inRange s.config s.addr.toNat 4 then s.mem.writeLanded s.addr.toNat (data.zip landed) else s.mem
  | none => s.mem

/-- A reset that arrives while the command `w` executes (70_reset_and_hazards.md R231): the command is abandoned and the
registers take their reset values. A command that would be refused for a device in its range is refused (log 8). -/
def abandonCommand (w : Word) (landed : List Bool) (s : State) : Host.Outcome State Fault Refusal :=
  match issueCommand w s with
  | .next _ => .next { resetRegisters s with mem := memAfterAbandon w landed s }
  | .fault f => .fault f
  | .refused r => .refused r

/-- Power-up (70_reset_and_hazards.md R230): reset, and data memory holds any bytes (log 13). -/
def powerUp (contents : List Host.Cell) (s : State) : State :=
  { resetRegisters s with mem := Memory.ofCells s.config.memSize contents }

/-- One event from outside, in the state from whose `pending` it has been taken. -/
def handle (e : HostEvent) (s : State) : Host.Outcome State Fault Refusal :=
  match e with
  | .regWrite addr width v => hostRegWrite addr width v s
  | .regRead addr width => hostRegRead addr width s
  | .dataWrite addr data => hostDataWrite addr data s
  | .dataRead addr count => hostDataRead addr count s
  | .reset => .next (resetRegisters s)
  | .powerUp contents => .next (powerUp contents s)
  | .resetDuring w l0 l1 l2 l3 => abandonCommand w [l0, l1, l2, l3] s

/-- Whether an event resets the window: the only events that may clear `RES_VALID` (10_state.md R49). -/
def HostEvent.isReset (e : HostEvent) : Bool :=
  match e with
  | .regWrite _ _ _ => false
  | .regRead _ _ => false
  | .dataWrite _ _ => false
  | .dataRead _ _ => false
  | .reset => true
  | .powerUp _ => true
  | .resetDuring _ _ _ _ _ => true

/-- The host's write of the command word `w` to `CMD` (10_state.md R37). -/
def commandWrite (c : Config) (w : Word) : HostEvent := .regWrite c.regBase .word w

/-- One step: the first outstanding event is taken and handled; with none outstanding the block is idle and nothing changes
(60_exceptions.md R225, 70_reset_and_hazards.md R232; log 5). -/
def stepOnce (s : State) : Host.Outcome State Fault Refusal :=
  match s.pending with
  | [] => .next s
  | e :: rest => handle e { s with pending := rest }

/-- `s` with the host's write of the word `w` (its low `nbits` bits) to `CMD` put first among the outstanding events. -/
def queueCommand (nbits w : Nat) (s : State) : State :=
  { s with pending := commandWrite s.config (BitVec.ofNat 32 (w % 2 ^ nbits)) :: s.pending }

end Sys2Proof.Machine
end

