-- ==== Sys2Proof/Machine/Step.lean ====
section
/-! DEFINITION. The step of the machine. All it does is in HostPort.lean. -/

namespace Sys2Proof.Machine

/-- One step of CRC32G and of the world outside it: the next outstanding event (70_reset_and_hazards.md R255; log 3). -/
def step (s : State) : Host.Outcome State Fault Refusal := stepOnce s

/-- `s` with the command word `w` where the next step takes its work from: the host's write to `CMD` (10_state.md R33,
R37). CRC32G fetches no instruction; log 3 says how a program comes to run. -/
def State.withFetchWord (s : State) (nbits w : Nat) : State := queueCommand nbits w s

end Sys2Proof.Machine
end

