-- ==== Sys2Proof/Safety.lean ====
section
/-! DEFINITION. The terms statements are made in: legal states, what a command leaves alone, and how agents' accesses interleave. -/

namespace Sys2Proof.Machine

/-- What holds of CRC32G in every state a run can reach, and what the spec promises of the registers together. -/
structure State.Inv (s : State) : Prop where
  /-- The parameters are in range (00_scope.md R11, R12). -/
  config_wf : s.config.wf = true
  /-- Data memory is in canonical form. -/
  mem_wf : s.mem.wf = true
  /-- No byte is held at or above `MEM_SIZE` (20_memory.md R70). -/
  mem_below : s.mem.below s.config.memSize = true
  /-- The reserved bits of `STATUS` are 0 and the error code is one that is produced (10_state.md R46). -/
  status_legal : statusLegal s.status = true
  /-- An unset `RES_VALID` means `RESULT` still holds its reset value (10_state.md R41, R49). -/
  result_unwritten : resValidOf s.status = false → s.result = 0x00000000#32
  /-- An unset `CHUNK_VALID` means the chunk registers still hold their reset values (10_state.md R46, R50). -/
  chunk_unwritten : chunkValidOf s.status = false →
    s.chunkLen = 0x00000000#32 ∧ s.chunkType = 0x00000000#32 ∧ s.chunkCrc = 0x00000000#32 ∧
      s.chunkNext = 0x00000000#32
  /-- A chunk check that sets `CHUNK_VALID` sets `RES_VALID` with it (10_state.md R49, R50). -/
  chunk_implies_result : chunkValidOf s.status = true → resValidOf s.status = true

/-- Two states with the same operand registers, parameters, outstanding events and replies: what no command writes
(10_state.md R38 to R40). -/
structure SameOperands (s t : State) : Prop where
  seed : t.seed = s.seed
  addr : t.addr = s.addr
  len : t.len = s.len
  config : t.config = s.config
  pending : t.pending = s.pending
  replies : t.replies = s.replies

/-- Two states with the same chunk registers. -/
structure SameChunk (s t : State) : Prop where
  chunkLen : t.chunkLen = s.chunkLen
  chunkType : t.chunkType = s.chunkType
  chunkCrc : t.chunkCrc = s.chunkCrc
  chunkNext : t.chunkNext = s.chunkNext

/-- No read-sensitive device lies among the `count` addresses from `a` upward (20_memory.md R80). -/
def NoDevice (c : Config) (a count : Nat) : Prop := deviceInRange c a count = false

/-- `zs` is an interleaving of the accesses `xs` of one agent and `ys` of another, each in its own order
(60_exceptions.md R222, 70_reset_and_hazards.md R245; log 11). -/
inductive Interleaving {α : Type} : List α → List α → List α → Prop where
  | done : Interleaving [] [] []
  | left {x : α} {xs ys zs : List α} : Interleaving xs ys zs → Interleaving (x :: xs) ys (x :: zs)
  | right {y : α} {xs ys zs : List α} : Interleaving xs ys zs → Interleaving xs (y :: ys) (y :: zs)

end Sys2Proof.Machine
end

