-- ==== Sys2Proof/Certificates/Slice0/Obligations.lean ====
section
/-! DEFINITION. The statements for the provers. Each docstring names the rule of spec/ it formalises, or the log entry of the choice it rests
on. The abbreviations in the first section are used by several statements. Masks and offsets are written out as the spec gives them. -/

open Sys2Proof Sys2Proof.Machine

namespace Sys2Proof.Statements

/-- `STATUS` after a command that succeeded and set the bits `set`: `ERRCODE` (bits 3:0) is 0 (10_state.md R47). -/
def okStatus (st set : Word) : Word := (st &&& 0xFFFFFFF0#32) ||| set

/-- `s` after a command that raised the error of code `code`: `ERRCODE` is the code and `ERR_STICKY` (bit 8) is 1, nothing else
has changed (60_exceptions.md R205). -/
def raised (code : Word) (s : State) : State :=
  { s with status := (s.status &&& 0xFFFFFFF0#32) ||| 0x00000100#32 ||| code }

/-- The members of the CRC family. -/
def crcFamily : List Instr := [.crcBit, .crcNib, .crcByte, .crcS4, .crc]

/-- `s` with the host's write of `w` to `CMD` as the next event and `rest` after it. -/
def withCommand (w : Word) (rest : List HostEvent) (s : State) : State :=
  { s with pending := .regWrite s.config.regBase .word w :: rest }

/-- What 40_crc.md R149 says of the CRC command `i`, whose word is `w`: on a range that fits and holds no device it completes, with
`RESULT` the CRC of R131 of the bytes and `RES_VALID` set; on a range that does not fit it raises `RANGE`. Nothing else changes. -/
def CrcCommandRule (w : Word) (i : Instr) : Prop :=
  decode w = some i ∧ ∀ s : State,
    (s.addr.toNat + s.len.toNat ≤ s.config.memSize → NoDevice s.config s.addr.toNat s.len.toNat →
      exec i s = .next { s with
        result := crc32 (s.mem.readBytes s.addr.toNat s.len.toNat) s.seed
        status := okStatus s.status 0x00010000#32 }) ∧
    (s.config.memSize < s.addr.toNat + s.len.toNat → exec i s = .next (raised 2#32 s))

/-- What 41_chunk_store.md R180 says of a store `i` of the four bytes `data (RESULT)`, whose word is `w`: on a range that fits and holds
no device it completes, those bytes stand at `ADDR`, every other byte reads as before, and only `ERRCODE` changes in the window; on a
range that does not fit it raises `RANGE`. -/
def StoreRule (w : Word) (i : Instr) (data : Word → List Byte) : Prop :=
  decode w = some i ∧ ∀ s : State,
    (s.addr.toNat + 4 ≤ s.config.memSize → NoDevice s.config s.addr.toNat 4 →
      ∃ m : Memory, exec i s = .next { s with mem := m, status := okStatus s.status 0#32 } ∧
        m.readBytes s.addr.toNat 4 = data s.result ∧
        ∀ x : Nat, x < s.addr.toNat ∨ s.addr.toNat + 4 ≤ x → m.read x = s.mem.read x) ∧
    (s.config.memSize < s.addr.toNat + 4 → exec i s = .next (raised 2#32 s))

/-- The words of the opcode map (30_encoding.md R105). -/
def tableWords : List Word :=
  [0x00000001#32, 0x00000002#32, 0x00000003#32, 0x00000004#32, 0x00000005#32, 0x00000010#32, 0x00000020#32, 0x00000120#32]

/-- The field conditions of 30_encoding.md R107 for an illegal word. -/
def FieldsIllegal (w : Word) : Prop :=
  w.extractLsb' 9 23 ≠ 0#23 ∨
  (w.extractLsb' 8 1 = 1#1 ∧ w.extractLsb' 0 8 ≠ 0x20#8) ∨
  w.extractLsb' 0 8 ∉ [0x01#8, 0x02#8, 0x03#8, 0x04#8, 0x05#8, 0x10#8, 0x20#8]

/-- The length field `L` of the chunk at `ADDR`, big-endian (41_chunk_store.md R170). -/
def chunkL (s : State) : Nat :=
  (be32 (s.mem.read s.addr.toNat) (s.mem.read (s.addr.toNat + 1)) (s.mem.read (s.addr.toNat + 2))
    (s.mem.read (s.addr.toNat + 3))).toNat

/-- The big-endian word at `a` (00_scope.md R20). -/
def wordAt (s : State) (a : Nat) : Word :=
  be32 (s.mem.read a) (s.mem.read (a + 1)) (s.mem.read (a + 2)) (s.mem.read (a + 3))

/-- The whole chunk at `ADDR` fits in data memory and holds no read-sensitive device. -/
def ChunkFits (s : State) : Prop :=
  s.addr.toNat + 12 + chunkL s ≤ s.config.memSize ∧ NoDevice s.config s.addr.toNat (12 + chunkL s)

/-- The CRC of the chunk at `ADDR` over type and payload (41_chunk_store.md R170: the length field is not covered). -/
def chunkCrcOf (s : State) : Word := crc32 (s.mem.readBytes (s.addr.toNat + 4) (4 + chunkL s)) 0#32

/-- The registers a chunk check writes once it has got past its range checks (41_chunk_store.md R171). -/
def chunkRegs (s : State) (st : Word) : State :=
  { s with
    chunkLen := wordAt s s.addr.toNat
    chunkType := wordAt s (s.addr.toNat + 4)
    chunkCrc := wordAt s (s.addr.toNat + 8 + chunkL s)
    chunkNext := BitVec.ofNat 32 ((s.addr.toNat + 12 + chunkL s) % 2 ^ 32)
    result := chunkCrcOf s
    status := st }

/-- `s` with every register of the window at its reset value (10_state.md R60). -/
def zeroed (s : State) : State :=
  { s with
    status := 0#32, seed := 0#32, addr := 0#32, len := 0#32, result := 0#32
    chunkLen := 0#32, chunkType := 0#32, chunkCrc := 0#32, chunkNext := 0#32 }

/-- `s` with other values in the `CHUNK_*` registers. -/
def otherChunk (x y : Word) (s : State) : State :=
  { s with chunkLen := x, chunkType := y, chunkCrc := x, chunkNext := y }

/-- An event that only reads (70_reset_and_hazards.md R255). -/
def isRead : HostEvent → Bool
  | .regWrite _ _ _ => false
  | .regRead _ _ => true
  | .dataWrite _ _ => false
  | .dataRead _ _ => true
  | .reset => false
  | .powerUp _ => false
  | .resetDuring _ _ _ _ _ => false

end Sys2Proof.Statements

open Sys2Proof.Statements

/-! ### Encoding -/

/-- Each word of the opcode map is its command, with the OP and ORD the map gives (30_encoding.md R105). -/
def Obligations.OpcodeMapWords : Prop :=
  ∀ r ∈ [(0x00000001#32, 0x01#8, 0#1, Instr.crcBit), (0x00000002#32, 0x02#8, 0#1, Instr.crcNib),
      (0x00000003#32, 0x03#8, 0#1, Instr.crcByte), (0x00000004#32, 0x04#8, 0#1, Instr.crcS4),
      (0x00000005#32, 0x05#8, 0#1, Instr.crc), (0x00000010#32, 0x10#8, 0#1, Instr.chunkChk),
      (0x00000020#32, 0x20#8, 0#1, Instr.storeBe), (0x00000120#32, 0x20#8, 1#1, Instr.storeLe)],
    decode r.1 = some r.2.2.2 ∧ encode r.2.2.2 = r.1 ∧ r.1.extractLsb' 0 8 = r.2.1 ∧ r.1.extractLsb' 8 1 = r.2.2.1

/-- Decoding inverts encoding both ways: every command has exactly one word and every word is at most one command
(30_encoding.md R104). -/
def Obligations.DecodeInvertsEncode : Prop :=
  ∀ (w : Word) (i : Instr), decode w = some i ↔ w = encode i

/-- A word decodes to nothing exactly when its fields are one of the four illegal cases (30_encoding.md R107). -/
def Obligations.IllegalWordsAreTheFieldCases : Prop :=
  ∀ w : Word, decode w = none ↔ FieldsIllegal w

/-- A word that is not in the table, and in particular a word of each of the four cases of R107, written to `CMD` raises `ILLEGAL_CMD`
and changes nothing but `STATUS` (30_encoding.md R103, R107). -/
def Obligations.IllegalWordRaisesIllegalCmd : Prop :=
  ∀ (s : State) (w : Word) (rest : List HostEvent), w ∉ tableWords ∨ FieldsIllegal w →
    step (withCommand w rest s) = .next (raised 1#32 { s with pending := rest })

/-! ### The step -/

/-- A step at a write of a command's word to `CMD` is the command's meaning at the state with that event taken; the step adds nothing
else (10_state.md R37, 30_encoding.md R104). The queue of events it takes its work from is the model's (log 3). -/
def Obligations.StepRunsDecodedCommand : Prop :=
  ∀ (s : State) (w : Word) (i : Instr) (rest : List HostEvent), decode w = some i →
    step (withCommand w rest s) = exec i { s with pending := rest }

/-- The state the host prepares for an instruction runs exactly it and then stands at the state it was prepared from (log 3). -/
def Obligations.PreparedWordRuns : Prop :=
  ∀ (s : State) (i : Instr), step (s.withFetchWord 32 (encode i).toNat) = exec i s

/-- With no access outstanding a step changes nothing. The MODEL'S choice (log 5), from "it executes nothing until the host writes
`CMD`" (70_reset_and_hazards.md R232). -/
def Obligations.IdleStepChangesNothing : Prop :=
  ∀ s : State, s.pending = [] → step s = .next s

/-- Every command completes on every state whose platform has no read-sensitive device: it never traps, faults or hangs
(60_exceptions.md R200, R218). -/
def Obligations.CommandsAlwaysComplete : Prop :=
  ∀ (i : Instr) (s : State), s.config.devices = [] → ∃ t : State, exec i s = .next t

/-! ### The CRC function -/

/-- The four algorithms, each with its own loop body and tables, return `Crc32` for every byte sequence and seed (40_crc.md R146). -/
def Obligations.AlgorithmsComputeCrc32 : Prop :=
  ∀ (alg : CrcAlg) (d : List Byte) (seed : Word), crcBy alg d seed = crc32 d seed

/-- A zero-length input returns its seed (40_crc.md R135). -/
def Obligations.EmptyInputReturnsSeed : Prop :=
  ∀ seed : Word, crc32 [] seed = seed

/-- Chaining: the CRC of two adjacent pieces is the CRC of the second seeded by the CRC of the first; so of any list of pieces
(40_crc.md R140). -/
def Obligations.CrcOfPiecesChains : Prop :=
  (∀ (d e : List Byte) (seed : Word), crc32 (d ++ e) seed = crc32 e (crc32 d seed)) ∧
  ∀ pieces : List (List Byte),
    pieces.foldl (fun seed d => crc32 d seed) 0#32 = crc32 pieces.flatten 0#32

/-- The two corner cases: zero bytes keep the accumulator 0, and four 0xFF bytes cancel the initial complement (40_crc.md R141). -/
def Obligations.CrcCornerCases : Prop :=
  (∀ n : Nat, crc32 (List.replicate n 0x00#8) 0xFFFFFFFF#32 = 0xFFFFFFFF#32) ∧
  crc32 [0xFF#8, 0xFF#8, 0xFF#8, 0xFF#8] 0#32 = 0xFFFFFFFF#32

/-- The check value of the gzip and PNG CRC-32 over "123456789" (40_crc.md R132, section 1). -/
def Obligations.CheckValueOfNineDigits : Prop :=
  crc32 [0x31#8, 0x32#8, 0x33#8, 0x34#8, 0x35#8, 0x36#8, 0x37#8, 0x38#8, 0x39#8] 0#32 = 0xCBF43926#32

/-- The nibble table has the 16 entries the rule lists, each the fourth power of the bit step (40_crc.md R142). -/
def Obligations.NibbleTableIsShiftByFour : Prop :=
  (List.range 16).map t4 =
    [0x00000000#32, 0x1DB71064#32, 0x3B6E20C8#32, 0x26D930AC#32, 0x76DC4190#32, 0x6B6B51F4#32, 0x4DB26158#32, 0x5005713C#32,
      0xEDB88320#32, 0xF00F9344#32, 0xD6D6A3E8#32, 0xCB61B38C#32, 0x9B64C2B0#32, 0x86D3D2D4#32, 0xA00AE278#32, 0xBDBDF21C#32] ∧
  t4Table.length = 16 ∧ ∀ i ∈ List.range 16, t4 i = shiftBits (BitVec.ofNat 32 i) 4

/-- The byte table is the eighth power of the bit step (40_crc.md R143). -/
def Obligations.ByteTableIsShiftByEight : Prop :=
  t8Table.flatten.length = 256 ∧ ∀ i ∈ List.range 256, t8 i = shiftBits (BitVec.ofNat 32 i) 8

/-- The slicing tables are the 16th, 24th and 32nd powers of the bit step on a byte, the update that derives each from the one before,
and 0 at entry 0 (40_crc.md R144). -/
def Obligations.SlicingTablesAreShifts : Prop :=
  (∀ b : Byte, s1 b.toNat = shiftBits (zext32 b) 16 ∧ s2 b.toNat = shiftBits (zext32 b) 24 ∧
      s3 b.toNat = shiftBits (zext32 b) 32 ∧
      s1 b.toNat = (t8 b.toNat >>> 8) ^^^ t8 (t8 b.toNat &&& 0xFF#32).toNat ∧
      s2 b.toNat = (s1 b.toNat >>> 8) ^^^ t8 (s1 b.toNat &&& 0xFF#32).toNat ∧
      s3 b.toNat = (s2 b.toNat >>> 8) ^^^ t8 (s2 b.toNat &&& 0xFF#32).toNat) ∧
  t8 0 = 0#32 ∧ s1 0 = 0#32 ∧ s2 0 = 0#32 ∧ s3 0 = 0#32

/-- Changing one byte of a buffer changes its CRC, whatever the seed. -/
def Obligations.OneByteChangeChangesCrc : Prop :=
  ∀ (d e : List Byte) (b b' : Byte) (seed : Word), b ≠ b' →
    crc32 (d ++ b :: e) seed ≠ crc32 (d ++ b' :: e) seed

/-! ### The CRC commands -/

/-- `CRC.BIT`: result, flags, `RANGE` and frame (40_crc.md R150). -/
def Obligations.CrcBitCommand : Prop := CrcCommandRule 0x00000001#32 .crcBit

/-- `CRC.NIB`: result, flags, `RANGE` and frame (40_crc.md R151). -/
def Obligations.CrcNibCommand : Prop := CrcCommandRule 0x00000002#32 .crcNib

/-- `CRC.BYTE`: result, flags, `RANGE` and frame (40_crc.md R152). -/
def Obligations.CrcByteCommand : Prop := CrcCommandRule 0x00000003#32 .crcByte

/-- `CRC.S4`: result, flags, `RANGE` and frame (40_crc.md R153). -/
def Obligations.CrcS4Command : Prop := CrcCommandRule 0x00000004#32 .crcS4

/-- `CRC`: result, flags, `RANGE` and frame, and the same effect as `CRC.S4` in every respect (40_crc.md R154). -/
def Obligations.CrcWrapperCommand : Prop :=
  CrcCommandRule 0x00000005#32 .crc ∧ ∀ s : State, exec .crc s = exec .crcS4 s

/-- A buffer split in two at any point and checksummed by two commands of the family, the first result as the second seed, gives the
`RESULT` of one command over the whole, whichever three commands they are (40_crc.md R140, R149). -/
def Obligations.ChainedCommandsMatchWhole : Prop :=
  ∀ (s : State) (n k : Nat) (i j l : Instr), i ∈ crcFamily → j ∈ crcFamily → l ∈ crcFamily →
    s.config.wf = true → n + k < 2 ^ 32 → s.addr.toNat + n + k ≤ s.config.memSize →
    NoDevice s.config s.addr.toNat (n + k) →
    ∃ t u v : State,
      exec i { s with len := BitVec.ofNat 32 n } = .next t ∧
      exec j { t with
        seed := t.result
        addr := BitVec.ofNat 32 (s.addr.toNat + n)
        len := BitVec.ofNat 32 k } = .next u ∧
      exec l { s with len := BitVec.ofNat 32 (n + k) } = .next v ∧
      u.result = v.result

/-- A CRC command repeated without changing its operands leaves the state it left the first time: it does not feed its result back
(40_crc.md R155). -/
def Obligations.RepeatedCrcCommandIsStable : Prop :=
  ∀ (i : Instr) (s : State), i ∈ crcFamily →
    (s.config.memSize < s.addr.toNat + s.len.toNat ∨ NoDevice s.config s.addr.toNat s.len.toNat) →
    ∃ t : State, exec i s = .next t ∧ exec i t = .next t

/-! ### The chunk check -/

/-- `CHUNK.CHK`: `RANGE` where the header or the whole chunk does not fit, and otherwise the chunk registers, `RESULT`, the valid bits,
and success or `CRC_MISMATCH` as the computed and the stored CRC agree or not; nothing else changes (41_chunk_store.md R171). -/
def Obligations.ChunkCheckCommand : Prop :=
  decode 0x00000010#32 = some .chunkChk ∧ ∀ s : State,
    (s.config.memSize < s.addr.toNat + 8 → exec .chunkChk s = .next (raised 2#32 s)) ∧
    (s.addr.toNat + 8 ≤ s.config.memSize → NoDevice s.config s.addr.toNat 8 →
      s.config.memSize < s.addr.toNat + 12 + chunkL s → exec .chunkChk s = .next (raised 2#32 s)) ∧
    (ChunkFits s → chunkCrcOf s = wordAt s (s.addr.toNat + 8 + chunkL s) →
      exec .chunkChk s = .next (chunkRegs s (okStatus s.status 0x00030000#32))) ∧
    (ChunkFits s → chunkCrcOf s ≠ wordAt s (s.addr.toNat + 8 + chunkL s) →
      exec .chunkChk s = .next (chunkRegs s (okStatus s.status 0x00030103#32)))

/-- One byte changed, of the type tag, the payload or the stored CRC of a chunk whose check succeeded, makes the same check end with
`CRC_MISMATCH` (41_chunk_store.md R174). -/
def Obligations.OneByteCorruptionIsDetected : Prop :=
  ∀ (s : State) (x : Nat) (b : Byte), ChunkFits s →
    chunkCrcOf s = wordAt s (s.addr.toNat + 8 + chunkL s) →
    s.addr.toNat + 4 ≤ x → x < s.addr.toNat + 12 + chunkL s → b ≠ s.mem.read x →
    ∃ t : State, exec .chunkChk { s with mem := s.mem.write x b } = .next t ∧
      t.status = okStatus s.status 0x00030103#32 ∧ t.result ≠ t.chunkCrc

/-- Building a chunk: a CRC command over type and payload, then `STORE.BE` at the CRC field, after which `CHUNK.CHK` at the chunk ends
with `NONE` and `RESULT` equal to the stored CRC (41_chunk_store.md R182). -/
def Obligations.BuiltChunkPassesCheck : Prop :=
  ∀ (s : State) (i : Instr), i ∈ crcFamily → s.config.wf = true → ChunkFits s →
    ∃ t u v : State,
      exec i { s with
        seed := 0#32
        addr := BitVec.ofNat 32 (s.addr.toNat + 4)
        len := BitVec.ofNat 32 (4 + chunkL s) } = .next t ∧
      exec .storeBe { t with addr := BitVec.ofNat 32 (s.addr.toNat + 8 + chunkL s) } = .next u ∧
      exec .chunkChk { u with addr := s.addr } = .next v ∧
      errCodeOf v.status = 0#4 ∧ v.result = v.chunkCrc ∧ v.chunkCrc = t.result

/-! ### The stores -/

/-- `STORE.BE`: most significant byte first (41_chunk_store.md R180). -/
def Obligations.StoreBigEndian : Prop :=
  StoreRule 0x00000020#32 .storeBe
    (fun v => [v.extractLsb' 24 8, v.extractLsb' 16 8, v.extractLsb' 8 8, v.extractLsb' 0 8])

/-- `STORE.LE`: least significant byte first (41_chunk_store.md R181). -/
def Obligations.StoreLittleEndian : Prop :=
  StoreRule 0x00000120#32 .storeLe
    (fun v => [v.extractLsb' 0 8, v.extractLsb' 8 8, v.extractLsb' 16 8, v.extractLsb' 24 8])

/-- What `STORE.BE` writes reads back big-endian as `RESULT`, and what `STORE.LE` writes reads back little-endian as `RESULT`. -/
def Obligations.StoredResultReadsBack : Prop :=
  ∀ s : State, s.addr.toNat + 4 ≤ s.config.memSize → NoDevice s.config s.addr.toNat 4 →
    (∃ t : State, exec .storeBe s = .next t ∧ wordAt t s.addr.toNat = s.result) ∧
    (∃ t : State, exec .storeLe s = .next t ∧
      le32 (t.mem.read s.addr.toNat) (t.mem.read (s.addr.toNat + 1)) (t.mem.read (s.addr.toNat + 2))
        (t.mem.read (s.addr.toNat + 3)) = s.result)

/-! ### What commands leave alone and do not read -/

/-- No command writes `SEED`, `ADDR` or `LEN`, nor the parameters, the outstanding events or the replies (10_state.md R38 to R40). -/
def Obligations.NoCommandWritesOperands : Prop :=
  ∀ (i : Instr) (s t : State), exec i s = .next t → SameOperands s t

/-- Only the stores write data memory: after any other command memory is the same, and after a store every byte outside the four at
`ADDR` reads as before (20_memory.md R71, R78). -/
def Obligations.OnlyStoresWriteMemory : Prop :=
  ∀ (i : Instr) (s t : State), exec i s = .next t →
    (i ≠ .storeBe → i ≠ .storeLe → t.mem = s.mem) ∧
    ∀ x : Nat, x < s.addr.toNat ∨ s.addr.toNat + 4 ≤ x → t.mem.read x = s.mem.read x

/-- Only a chunk check writes the `CHUNK_*` registers, and no store writes `RESULT` (10_state.md R36). -/
def Obligations.ResultRegistersHaveOneWriter : Prop :=
  ∀ (i : Instr) (s t : State), exec i s = .next t →
    (i ≠ .chunkChk → SameChunk s t) ∧ (i ∉ .chunkChk :: crcFamily → t.result = s.result)

/-- A command that ends in `ILLEGAL_CMD` or `RANGE` has changed nothing but `STATUS`, and one that ends in another code is no illegal word
(60_exceptions.md R205, R212). -/
def Obligations.FailedCommandsChangeOnlyStatus : Prop :=
  ∀ (s t : State) (w : Word), issueCommand w s = .next t →
    (errCodeOf t.status = 1#4 ↔ decode w = none) ∧
    (errCodeOf t.status = 1#4 → t = raised 1#32 s) ∧
    (errCodeOf t.status = 2#4 → t = raised 2#32 s) ∧
    (errCodeOf t.status = 3#4 → decode w = some .chunkChk) ∧
    errCodeOf t.status ∈ [0#4, 1#4, 2#4, 3#4]

/-- The flags each outcome leaves, row by row of the table of 10_state.md R53. -/
def Obligations.FlagsFollowTheOutcomeTable : Prop :=
  ∀ (s t : State) (w : Word), issueCommand w s = .next t →
    let e := errCodeOf t.status
    let row := fun (sticky res chunk : Bool) =>
      errStickyOf t.status = sticky ∧ resValidOf t.status = res ∧ chunkValidOf t.status = chunk
    let sticky := errStickyOf s.status
    let res := resValidOf s.status
    let chunk := chunkValidOf s.status
    (e = 1#4 ∨ e = 2#4 → row true res chunk) ∧
    (e = 3#4 → row true true true) ∧
    (e = 0#4 → ∃ i, decode w = some i ∧
      (i ∈ crcFamily → row sticky true chunk) ∧ (i = .chunkChk → row sticky true true) ∧
      (i = .storeBe ∨ i = .storeLe → row sticky res chunk))

/-- No command's behaviour depends on `STATUS`: with another `STATUS` it does the same to everything else (10_state.md R53). In particular
an error does not block the next command (60_exceptions.md R214). -/
def Obligations.CommandsDoNotReadStatus : Prop :=
  ∀ (i : Instr) (s t : State) (st : Word), exec i s = .next t →
    ∃ u : State, exec i { s with status := st } = .next u ∧ { u with status := t.status } = t ∧
      errCodeOf u.status = errCodeOf t.status

/-- `CHUNK.CHK` and the stores read neither `SEED` nor `LEN`, no CRC command and no chunk check reads `RESULT`, and no command reads a
`CHUNK_*` register (30_encoding.md R106). -/
def Obligations.UnreadRegistersDoNotMatter : Prop :=
  ∀ (s : State) (x y : Word),
    (∀ (i : Instr) (t : State), i ∉ crcFamily → exec i s = .next t →
      exec i { s with seed := x, len := y } = .next { t with seed := x, len := y }) ∧
    (∀ (i : Instr) (t : State), i ∈ crcFamily → errCodeOf t.status = 0#4 → exec i s = .next t →
      exec i (otherChunk x y { s with result := x }) = .next (otherChunk x y t)) ∧
    (∀ t : State, errCodeOf t.status ≠ 2#4 → exec .chunkChk s = .next t →
      exec .chunkChk (otherChunk x y { s with result := x }) = .next t) ∧
    (∀ (i : Instr) (t : State), i = .storeBe ∨ i = .storeLe → exec i s = .next t →
      exec i (otherChunk x y s) = .next (otherChunk x y t))

/-- A command over a range that fits and holds a read-sensitive device is refused, for every command; a chunk check already when its
header holds one (20_memory.md R80; that the stores are refused too is log 8). -/
def Obligations.DeviceRangesAreRefused : Prop :=
  ∀ s : State,
    (∀ i ∈ crcFamily, s.addr.toNat + s.len.toNat ≤ s.config.memSize →
      ¬ NoDevice s.config s.addr.toNat s.len.toNat → exec i s = .refused .readSensitiveDevice) ∧
    (∀ i : Instr, i = .storeBe ∨ i = .storeLe → s.addr.toNat + 4 ≤ s.config.memSize →
      ¬ NoDevice s.config s.addr.toNat 4 → exec i s = .refused .readSensitiveDevice) ∧
    (s.addr.toNat + 8 ≤ s.config.memSize → ¬ NoDevice s.config s.addr.toNat 8 →
      exec .chunkChk s = .refused .readSensitiveDevice) ∧
    (s.addr.toNat + 12 + chunkL s ≤ s.config.memSize → ¬ NoDevice s.config s.addr.toNat (12 + chunkL s) →
      exec .chunkChk s = .refused .readSensitiveDevice)

/-! ### The register window -/

/-- A naturally aligned 32-bit read at each offset of the window gives the host the register the map puts there, `CMD` and the reserved
offsets as 0 and the reserved bits of `STATUS` as 0, and changes nothing (10_state.md R36, R37, R46, R51). The list of replies the host
gets back is the model's (log 4). -/
def Obligations.RegisterReadsFollowTheMap : Prop :=
  ∀ (s : State) (k : Nat) (rest : List HostEvent), k < 64 →
    step { s with pending := .regRead (s.config.regBase + 4 * k) .word :: rest } =
      .next { s with
        pending := rest
        replies := .word ([0#32, s.status &&& 0x0003010F#32, s.seed, s.addr, s.len, s.result, s.chunkLen,
          s.chunkType, s.chunkCrc, s.chunkNext].getD k 0#32) :: s.replies }

/-- A naturally aligned 32-bit write at each offset of the window but `CMD`: `SEED`, `ADDR` and `LEN` take the value, `STATUS` loses
`ERR_STICKY` where bit 8 is 1, and a read-only or reserved offset ignores it (10_state.md R36, R38 to R40, R48, R51). -/
def Obligations.RegisterWritesFollowTheMap : Prop :=
  ∀ (s : State) (v : Word) (k : Nat) (rest : List HostEvent), 0 < k → k < 64 →
    step { s with pending := .regWrite (s.config.regBase + 4 * k) .word v :: rest } =
      .next { s with
        pending := rest
        status := if k = 1 ∧ v.getLsbD 8 = true then s.status &&& 0xFFFFFEFF#32 else s.status
        seed := if k = 2 then v else s.seed
        addr := if k = 3 then v else s.addr
        len := if k = 4 then v else s.len }

/-- An access to the window of another width, or at an offset that is not a multiple of 4, is refused (10_state.md R52). -/
def Obligations.SubWordOrMisalignedIsRefused : Prop :=
  ∀ (s : State) (offset : Nat) (width : AccessWidth) (v : Word) (rest : List HostEvent), offset < 256 →
    width ≠ .word ∨ offset % 4 ≠ 0 →
    step { s with pending := .regRead (s.config.regBase + offset) width :: rest } = .refused .subWordOrMisaligned ∧
    step { s with pending := .regWrite (s.config.regBase + offset) width v :: rest } = .refused .subWordOrMisaligned

/-- `ERR_STICKY` is set by every command that ends with `ERRCODE` not 0, never cleared by a command, and cleared by a host write to
`STATUS` exactly when bit 8 of the value is 1, which changes no other field (10_state.md R48). -/
def Obligations.StickyBitLaw : Prop :=
  (∀ (s t : State) (w : Word), issueCommand w s = .next t →
    (errCodeOf t.status ≠ 0#4 → errStickyOf t.status = true) ∧
    (errStickyOf s.status = true → errStickyOf t.status = true)) ∧
  ∀ (s : State) (v : Word) (rest : List HostEvent),
    ∃ t : State, step { s with pending := .regWrite (s.config.regBase + 4) .word v :: rest } = .next t ∧
      { t with status := s.status } = { s with pending := rest } ∧
      errStickyOf t.status = (errStickyOf s.status && !v.getLsbD 8) ∧
      ∀ b : Nat, b ≠ 8 → t.status.getLsbD b = s.status.getLsbD b

/-- `ERRCODE` is written by commands and resets alone: any other event leaves it (10_state.md R47). -/
def Obligations.HostAccessesLeaveErrCode : Prop :=
  ∀ (s t : State) (e : HostEvent) (rest : List HostEvent), s.pending = e :: rest → step s = .next t →
    e.isReset = false → (∀ w : Word, e ≠ .regWrite s.config.regBase .word w) →
    errCodeOf t.status = errCodeOf s.status

/-- Nothing but reset clears `RES_VALID` or `CHUNK_VALID` (10_state.md R49, R50). -/
def Obligations.OnlyResetClearsValidBits : Prop :=
  ∀ (s t : State), step s = .next t → (∀ e rest, s.pending = e :: rest → e.isReset = false) →
    (resValidOf s.status = true → resValidOf t.status = true) ∧
    (chunkValidOf s.status = true → chunkValidOf t.status = true)

/-! ### Data memory as the host sees it -/

/-- A command reads the bytes the host wrote before it: a host write of a buffer and then a CRC command over it leave the CRC of those
bytes in `RESULT` (20_memory.md R83). -/
def Obligations.CommandSeesEarlierHostWrite : Prop :=
  ∀ (s : State) (d : List Byte) (i : Instr) (rest : List HostEvent), i ∈ crcFamily →
    s.len.toNat = d.length → s.addr.toNat + d.length ≤ s.config.memSize →
    NoDevice s.config s.addr.toNat d.length →
    s.pending = .dataWrite s.addr.toNat d :: .regWrite s.config.regBase .word (encode i) :: rest →
    ∃ t u : State, step s = .next t ∧ step t = .next u ∧ u.result = crc32 d s.seed ∧ u.pending = rest

/-- A host read of data memory gives the bytes of its range in increasing address order and changes nothing, and one that reaches an
address at or above `MEM_SIZE` faults, as a write there does. The MODEL'S choice of a fault (log 9), from "There is no address at or
above `MEM_SIZE`" (20_memory.md R70). -/
def Obligations.HostDataAccessStaysInMemory : Prop :=
  ∀ (s : State) (a n : Nat) (d : List Byte) (rest : List HostEvent),
    (a + n ≤ s.config.memSize → NoDevice s.config a n →
      step { s with pending := .dataRead a n :: rest } =
        .next { s with pending := rest, replies := .bytes ((List.range n).map (fun k => s.mem.read (a + k))) :: s.replies }) ∧
    (s.config.memSize < a + n →
      step { s with pending := .dataRead a n :: rest } = .fault .noSuchDataAddress) ∧
    (s.config.memSize < a + d.length →
      step { s with pending := .dataWrite a d :: rest } = .fault .noSuchDataAddress)

/-- Every draw of a race is a run: single-byte writes by another master, put before the command in the order of the outstanding events,
bring the command to the memory in which each of those bytes holds its new value (70_reset_and_hazards.md R242; log 10). -/
def Obligations.RaceDrawsAreRuns : Prop :=
  ∀ (s : State) (draw : List (Nat × Byte)) (w : Word),
    (∀ c ∈ draw, c.1 < s.config.memSize ∧ NoDevice s.config c.1 1) →
    Host.Core.run Sys2Proof.core (draw.length + 1)
        { s with pending := draw.map (fun c => .dataWrite c.1 [c.2]) ++ [.regWrite s.config.regBase .word w] } =
      issueCommand w { s with pending := [], mem := draw.foldl (fun m c => m.write c.1 c.2) s.mem }

/-- An agent that only reads cannot disturb another: in every interleaving of its accesses with the other's, the registers and the data
memory end as they do without it (60_exceptions.md R222, 70_reset_and_hazards.md R245, 10_state.md R51; log 11). -/
def Obligations.ReadersDoNotDisturb : Prop :=
  ∀ (s t : State) (xs ys zs : List HostEvent), Interleaving xs ys zs → (∀ e ∈ ys, isRead e = true) →
    Host.Core.run Sys2Proof.core zs.length { s with pending := zs } = .next t →
    ∃ u : State, Host.Core.run Sys2Proof.core xs.length { s with pending := xs } = .next u ∧
      { t with replies := [] } = { u with replies := [] }

/-! ### Reset -/

/-- Right after reset every register of the window reads 0 and no valid bit is set (10_state.md R60). -/
def Obligations.ResetRegistersAreZero : Prop :=
  zeroed State.reset = State.reset ∧ ∀ k : Nat, readOffset (4 * k) State.reset = 0#32

/-- A reset sets every register of the window to 0 and leaves data memory alone; a power-up sets the registers to 0 and brings any bytes
to data memory (70_reset_and_hazards.md R230). That the parameters, the outstanding events and the replies stay is log 17. -/
def Obligations.ResetClearsRegistersOnly : Prop :=
  ∀ (s : State) (rest : List HostEvent) (cells : List Host.Cell),
    step { s with pending := .reset :: rest } = .next (zeroed { s with pending := rest }) ∧
    ∃ m : Memory, step { s with pending := .powerUp cells :: rest } = .next (zeroed { s with pending := rest, mem := m }) ∧
      ((cells.map (fun c => c.1)).Nodup → ∀ c ∈ cells, c.1 < s.config.memSize → m.read c.1 = c.2)

/-- A reset while a command executes abandons it: the registers are reset; each byte a store that fits targets holds its new or its old
value, as the event's flags say, independently, and every other byte reads as before; every other command leaves data memory as it was
(70_reset_and_hazards.md R231). -/
def Obligations.ResetDuringCommand : Prop :=
  ∀ (s : State) (l0 l1 l2 l3 : Bool) (rest : List HostEvent), s.config.devices = [] →
    (∀ (i : Instr) (bytes : List Byte), i = .storeBe ∧ bytes = bytesBe s.result ∨ i = .storeLe ∧ bytes = bytesLe s.result →
      s.addr.toNat + 4 ≤ s.config.memSize →
      ∃ m : Memory, step { s with pending := .resetDuring (encode i) l0 l1 l2 l3 :: rest } =
          .next (zeroed { s with pending := rest, mem := m }) ∧
        (∀ k : Nat, k < 4 → m.read (s.addr.toNat + k) =
          if [l0, l1, l2, l3].getD k false then bytes.getD k 0#8 else s.mem.read (s.addr.toNat + k)) ∧
        ∀ x : Nat, x < s.addr.toNat ∨ s.addr.toNat + 4 ≤ x → m.read x = s.mem.read x) ∧
    (∀ w : Word, (decode w ≠ some .storeBe ∧ decode w ≠ some .storeLe ∨ s.config.memSize < s.addr.toNat + 4) →
      step { s with pending := .resetDuring w l0 l1 l2 l3 :: rest } = .next (zeroed { s with pending := rest }))

/-- The commands straight after reset, with no operand written, over any data memory: a CRC command succeeds with `RESULT` 0 and `STATUS`
0x00010000, and `STORE.BE` writes four zero bytes at address 0 (70_reset_and_hazards.md R236). -/
def Obligations.CommandsStraightAfterReset : Prop :=
  ∀ s : State,
    (∀ i ∈ crcFamily, exec i (zeroed s) = .next { zeroed s with status := 0x00010000#32 }) ∧
    (4 ≤ s.config.memSize → NoDevice s.config 0 4 →
      ∃ m : Memory, exec .storeBe (zeroed s) = .next { zeroed s with mem := m } ∧
        m.readBytes 0 4 = [0#8, 0#8, 0#8, 0#8] ∧ ∀ x : Nat, 4 ≤ x → m.read x = s.mem.read x)

/-! ### Invariants -/

/-- The invariant holds right after reset. `State.reset` carries parameters the model chose (log 1). -/
def Obligations.ResetStateMeetsInvariant : Prop := State.reset.Inv

/-- Every step keeps the invariant: parameters in range, data memory in canonical form and below `MEM_SIZE`, the reserved bits of `STATUS`
0 and its error code one that is produced, and the valid bits telling reset values from computed ones. -/
def Obligations.EveryStepKeepsInvariant : Prop :=
  ∀ s t : State, s.Inv → step s = .next t → t.Inv

/-- No step changes the parameters: they are fixed for the life of an instance (10_state.md R31). -/
def Obligations.ParametersNeverChange : Prop :=
  ∀ s t : State, step s = .next t → t.config = s.config
end

