-- ==== Sys2Proof/Laws/Flags.lean ====
section
/-! SUPPORT. What each operation on `STATUS` leaves in each of its fields (10_state.md R46 to R50), and that each keeps the reserved
bits at 0. -/

namespace Sys2Proof.Machine

/-! ### `setErrCode` -/

@[simp] theorem errCodeOf_setErrCode (e : ErrCode) (st : Word) : errCodeOf (setErrCode e st) = e.code := by
  apply BitVec.eq_of_getLsbD_eq
  intro i hi
  interval_cases i <;> cases e <;> simp [errCodeOf, setErrCode, ErrCode.code]

@[simp] theorem errStickyOf_setErrCode (e : ErrCode) (st : Word) :
    errStickyOf (setErrCode e st) = errStickyOf st := by
  cases e <;> simp [errStickyOf, setErrCode, ErrCode.code]

@[simp] theorem resValidOf_setErrCode (e : ErrCode) (st : Word) :
    resValidOf (setErrCode e st) = resValidOf st := by
  cases e <;> simp [resValidOf, setErrCode, ErrCode.code]

@[simp] theorem chunkValidOf_setErrCode (e : ErrCode) (st : Word) :
    chunkValidOf (setErrCode e st) = chunkValidOf st := by
  cases e <;> simp [chunkValidOf, setErrCode, ErrCode.code]

/-! ### `setErrSticky` and `clearErrSticky` -/

@[simp] theorem errCodeOf_setErrSticky (st : Word) : errCodeOf (setErrSticky st) = errCodeOf st := by
  apply BitVec.eq_of_getLsbD_eq
  intro i hi
  interval_cases i <;> simp [errCodeOf, setErrSticky]

@[simp] theorem errStickyOf_setErrSticky (st : Word) : errStickyOf (setErrSticky st) = true := by
  simp [errStickyOf, setErrSticky]

@[simp] theorem resValidOf_setErrSticky (st : Word) : resValidOf (setErrSticky st) = resValidOf st := by
  simp [resValidOf, setErrSticky]

@[simp] theorem chunkValidOf_setErrSticky (st : Word) : chunkValidOf (setErrSticky st) = chunkValidOf st := by
  simp [chunkValidOf, setErrSticky]

@[simp] theorem errCodeOf_clearErrSticky (st : Word) : errCodeOf (clearErrSticky st) = errCodeOf st := by
  apply BitVec.eq_of_getLsbD_eq
  intro i hi
  interval_cases i <;> simp [errCodeOf, clearErrSticky]

@[simp] theorem errStickyOf_clearErrSticky (st : Word) : errStickyOf (clearErrSticky st) = false := by
  simp [errStickyOf, clearErrSticky]

@[simp] theorem resValidOf_clearErrSticky (st : Word) : resValidOf (clearErrSticky st) = resValidOf st := by
  simp [resValidOf, clearErrSticky]

@[simp] theorem chunkValidOf_clearErrSticky (st : Word) :
    chunkValidOf (clearErrSticky st) = chunkValidOf st := by
  simp [chunkValidOf, clearErrSticky]

/-! ### `setResValid` and `setChunkValid` -/

@[simp] theorem errCodeOf_setResValid (st : Word) : errCodeOf (setResValid st) = errCodeOf st := by
  apply BitVec.eq_of_getLsbD_eq
  intro i hi
  interval_cases i <;> simp [errCodeOf, setResValid]

@[simp] theorem errStickyOf_setResValid (st : Word) : errStickyOf (setResValid st) = errStickyOf st := by
  simp [errStickyOf, setResValid]

@[simp] theorem resValidOf_setResValid (st : Word) : resValidOf (setResValid st) = true := by
  simp [resValidOf, setResValid]

@[simp] theorem chunkValidOf_setResValid (st : Word) : chunkValidOf (setResValid st) = chunkValidOf st := by
  simp [chunkValidOf, setResValid]

@[simp] theorem errCodeOf_setChunkValid (st : Word) : errCodeOf (setChunkValid st) = errCodeOf st := by
  apply BitVec.eq_of_getLsbD_eq
  intro i hi
  interval_cases i <;> simp [errCodeOf, setChunkValid]

@[simp] theorem errStickyOf_setChunkValid (st : Word) :
    errStickyOf (setChunkValid st) = errStickyOf st := by
  simp [errStickyOf, setChunkValid]

@[simp] theorem resValidOf_setChunkValid (st : Word) : resValidOf (setChunkValid st) = resValidOf st := by
  simp [resValidOf, setChunkValid]

@[simp] theorem chunkValidOf_setChunkValid (st : Word) : chunkValidOf (setChunkValid st) = true := by
  simp [chunkValidOf, setChunkValid]

/-! ### The reserved bits -/

theorem statusLegal_iff (st : Word) : statusLegal st = true ↔ st &&& 0xFFFCFEFC#32 = 0#32 := by
  simp [statusLegal]

theorem statusLegal_setErrCode (e : ErrCode) (st : Word) (h : statusLegal st = true) :
    statusLegal (setErrCode e st) = true := by
  rw [statusLegal_iff] at *
  have hst : (st &&& 0xFFFFFFF0#32) &&& 0xFFFCFEFC#32 = 0#32 := by
    rw [BitVec.and_assoc, BitVec.and_comm 0xFFFFFFF0#32, ← BitVec.and_assoc, h]
    rfl
  rw [setErrCode, BitVec.and_or_distrib_right, hst]
  cases e <;> rfl

theorem statusLegal_or (st v : Word) (h : statusLegal st = true) (hv : v &&& 0xFFFCFEFC#32 = 0#32) :
    statusLegal (st ||| v) = true := by
  rw [statusLegal_iff] at *
  rw [BitVec.and_or_distrib_right, h, hv]
  rfl

theorem statusLegal_setErrSticky (st : Word) (h : statusLegal st = true) :
    statusLegal (setErrSticky st) = true := statusLegal_or st _ h rfl

theorem statusLegal_setResValid (st : Word) (h : statusLegal st = true) :
    statusLegal (setResValid st) = true := statusLegal_or st _ h rfl

theorem statusLegal_setChunkValid (st : Word) (h : statusLegal st = true) :
    statusLegal (setChunkValid st) = true := statusLegal_or st _ h rfl

theorem statusLegal_clearErrSticky (st : Word) (h : statusLegal st = true) :
    statusLegal (clearErrSticky st) = true := by
  rw [statusLegal_iff] at *
  rw [clearErrSticky, BitVec.and_assoc, BitVec.and_comm 0xFFFFFEFF#32, ← BitVec.and_assoc, h]
  rfl

end Sys2Proof.Machine
end

