-- ==== Sys2Proof/Laws/Memory.lean ====
section
/-! SUPPORT. The laws of data memory: a read after a write, the frame of a write, and the canonical form, which every memory
operation keeps. None of the reading laws needs the canonical form. -/

namespace Sys2Proof.Machine

/-! ### Reading after writing -/

@[simp] theorem read_nil (a : Nat) : Memory.read [] a = unwrittenByte := rfl

theorem read_cons (k : Nat) (v : Byte) (m : Memory) (a : Nat) :
    Memory.read ((k, v) :: m) a = if k = a then v else Memory.read m a := rfl

theorem read_without_same (m : Memory) (a : Nat) : (m.without a).read a = unwrittenByte := by
  induction m with
  | nil => rfl
  | cons c m ih =>
    obtain ⟨k, v⟩ := c
    by_cases h : k = a
    · simpa [Memory.without, h] using ih
    · simpa [Memory.without, h, read_cons] using ih

theorem read_without_other (m : Memory) {a x : Nat} (h : x ≠ a) : (m.without a).read x = m.read x := by
  induction m with
  | nil => rfl
  | cons c m ih =>
    obtain ⟨k, v⟩ := c
    by_cases hk : k = a
    · have hx : ¬ k = x := by omega
      simpa [Memory.without, hk, read_cons, show ¬ a = x by omega] using ih
    · have := ih
      simp only [Memory.without] at this
      simp [Memory.without, hk, read_cons, this]

theorem read_place (m : Memory) (a x : Nat) (b : Byte) (hm : ∀ c ∈ m, c.1 ≠ a) :
    (m.place a b).read x = if a = x then b else m.read x := by
  induction m with
  | nil => rfl
  | cons c m ih =>
    obtain ⟨k, v⟩ := c
    have hk : k ≠ a := hm (k, v) (by simp)
    have hrest := ih (fun c hc => hm c (by simp [hc]))
    by_cases h : a < k
    · simp [Memory.place, h, read_cons]
    · rw [Memory.place, if_neg h, read_cons, hrest, read_cons]
      by_cases hx : k = x
      · simp [hx, show ¬ a = x by omega]
      · simp [hx]

theorem mem_without_ne (m : Memory) (a : Nat) : ∀ c ∈ m.without a, c.1 ≠ a := by
  intro c hc
  simpa using (List.mem_filter.mp hc).2

/-- What every address reads after a one-byte write. -/
theorem read_write (m : Memory) (a x : Nat) (b : Byte) :
    (m.write a b).read x = if a = x then b else m.read x := by
  unfold Memory.write
  by_cases hx : a = x
  · subst hx
    by_cases hb : b = unwrittenByte
    · simp [hb, read_without_same]
    · simp [hb, read_place _ _ _ _ (mem_without_ne m a)]
  · have hx' : x ≠ a := fun h => hx h.symm
    by_cases hb : b = unwrittenByte
    · simp [hb, hx, read_without_other m hx']
    · simp [hb, hx, read_place _ _ _ _ (mem_without_ne m a), read_without_other m hx']

@[simp] theorem read_write_same (m : Memory) (a : Nat) (b : Byte) : (m.write a b).read a = b := by
  simp [read_write]

theorem read_write_other (m : Memory) {a x : Nat} (b : Byte) (h : x ≠ a) :
    (m.write a b).read x = m.read x := by
  simp [read_write, show ¬ a = x from fun e => h e.symm]

/-! ### Byte sequences -/

@[simp] theorem readBytes_zero (m : Memory) (a : Nat) : m.readBytes a 0 = [] := rfl

@[simp] theorem readBytes_succ (m : Memory) (a n : Nat) :
    m.readBytes a (n + 1) = m.read a :: m.readBytes (a + 1) n := rfl

@[simp] theorem readBytes_length (m : Memory) (a n : Nat) : (m.readBytes a n).length = n := by
  induction n generalizing a with
  | zero => rfl
  | succ n ih => simp [ih]

theorem readBytes_add (m : Memory) (a n k : Nat) :
    m.readBytes a (n + k) = m.readBytes a n ++ m.readBytes (a + n) k := by
  induction n generalizing a with
  | zero => simp
  | succ n ih =>
    rw [show n + 1 + k = (n + k) + 1 by omega, readBytes_succ, ih, readBytes_succ,
      show a + 1 + n = a + (n + 1) by omega]
    rfl

theorem readBytes_getElem (m : Memory) (a n i : Nat) (h : i < (m.readBytes a n).length) :
    (m.readBytes a n)[i] = m.read (a + i) := by
  induction n generalizing a i with
  | zero => simp at h
  | succ n ih =>
    cases i with
    | zero => simp
    | succ i => simp [ih, Nat.add_assoc, Nat.add_comm 1 i]

/-- Two memories that read the same over a range give the same bytes. -/
theorem readBytes_congr (m m' : Memory) (a n : Nat) (h : ∀ x, a ≤ x → x < a + n → m'.read x = m.read x) :
    m'.readBytes a n = m.readBytes a n := by
  induction n generalizing a with
  | zero => rfl
  | succ n ih =>
    simp only [readBytes_succ]
    rw [h a (by omega) (by omega), ih (a + 1) (fun x h1 h2 => h x (by omega) (by omega))]

/-- A write of bytes leaves every address outside its range alone. -/
theorem read_writeBytes_outside (m : Memory) (a : Nat) (d : List Byte) (x : Nat)
    (h : x < a ∨ a + d.length ≤ x) : (m.writeBytes a d).read x = m.read x := by
  induction d generalizing m a with
  | nil => rfl
  | cons b d ih =>
    simp only [List.length_cons] at h
    simp only [Memory.writeBytes]
    rw [ih _ _ (by omega), read_write_other m b (by omega)]

/-- A write of bytes puts each byte at its address. -/
theorem read_writeBytes_inside (m : Memory) (a : Nat) (d : List Byte) (i : Nat) (h : i < d.length) :
    (m.writeBytes a d).read (a + i) = d[i] := by
  induction d generalizing m a i with
  | nil => simp at h
  | cons b d ih =>
    simp only [Memory.writeBytes]
    cases i with
    | zero => simp [read_writeBytes_outside _ (a + 1) d a (by omega)]
    | succ i =>
      have hi := ih (m.write a b) (a + 1) i (by simpa using h)
      simpa [Nat.add_assoc, Nat.add_comm 1 i] using hi

/-- What was written is read back. -/
theorem readBytes_writeBytes (m : Memory) (a : Nat) (d : List Byte) :
    (m.writeBytes a d).readBytes a d.length = d := by
  apply List.ext_getElem (by simp)
  intro i h1 h2
  rw [readBytes_getElem, read_writeBytes_inside m a d i h2]

/-- A partly landed write leaves every address outside its range alone. -/
theorem read_writeLanded_outside (m : Memory) (a : Nat) (d : List (Byte × Bool)) (x : Nat)
    (h : x < a ∨ a + d.length ≤ x) : (m.writeLanded a d).read x = m.read x := by
  induction d generalizing m a with
  | nil => rfl
  | cons c d ih =>
    obtain ⟨b, l⟩ := c
    simp only [List.length_cons] at h
    simp only [Memory.writeLanded]
    rw [ih _ _ (by omega)]
    cases l
    · rfl
    · exact read_write_other m b (by omega)

/-- A partly landed write puts a marked byte at its address and leaves an unmarked one alone. -/
theorem read_writeLanded_inside (m : Memory) (a : Nat) (d : List (Byte × Bool)) (i : Nat) (h : i < d.length) :
    (m.writeLanded a d).read (a + i) = if d[i].2 then d[i].1 else m.read (a + i) := by
  induction d generalizing m a i with
  | nil => simp at h
  | cons c d ih =>
    obtain ⟨b, l⟩ := c
    simp only [Memory.writeLanded]
    cases i with
    | zero =>
      have ho := fun m' => read_writeLanded_outside m' (a + 1) d a (by omega)
      cases l <;> simp [ho]
    | succ i =>
      have hi := ih (if l then m.write a b else m) (a + 1) i (by simpa using h)
      have hr : (if l then m.write a b else m).read (a + 1 + i) = m.read (a + 1 + i) := by
        cases l
        · rfl
        · exact read_write_other m b (by omega)
      rw [hr] at hi
      simpa [Nat.add_assoc, Nat.add_comm 1 i] using hi

/-! ### The canonical form -/

theorem wf_cons (k : Nat) (v : Byte) (m : Memory) :
    Memory.wf ((k, v) :: m) = true ↔ v ≠ unwrittenByte ∧ (∀ c ∈ m, k < c.1) ∧ Memory.wf m = true := by
  simp [Memory.wf, and_assoc]

theorem without_wf (m : Memory) (a : Nat) (h : m.wf = true) : (m.without a).wf = true := by
  induction m with
  | nil => rfl
  | cons c m ih =>
    obtain ⟨k, v⟩ := c
    obtain ⟨hv, hk, hm⟩ := (wf_cons k v m).mp h
    by_cases ha : k = a
    · simpa [Memory.without, ha] using ih hm
    · have he : Memory.without ((k, v) :: m) a = (k, v) :: Memory.without m a := by simp [Memory.without, ha]
      rw [he, wf_cons]
      exact ⟨hv, fun c hc => hk c (List.mem_filter.mp hc).1, ih hm⟩

theorem mem_place (m : Memory) (a : Nat) (b : Byte) (c : Host.Cell) (h : c ∈ m.place a b) :
    c = (a, b) ∨ c ∈ m := by
  induction m with
  | nil => simpa [Memory.place] using h
  | cons d m ih =>
    obtain ⟨k, v⟩ := d
    by_cases ha : a < k
    · simpa [Memory.place, ha] using h
    · simp only [Memory.place, ha, if_false, List.mem_cons] at h
      rcases h with h | h
      · exact .inr (by simp [h])
      · rcases ih h with h | h
        · exact .inl h
        · exact .inr (by simp [h])

theorem place_wf (m : Memory) (a : Nat) (b : Byte) (hb : b ≠ unwrittenByte)
    (hm : m.wf = true) (ha : ∀ c ∈ m, c.1 ≠ a) : (m.place a b).wf = true := by
  induction m with
  | nil => simp [Memory.place, Memory.wf, hb]
  | cons c m ih =>
    obtain ⟨k, v⟩ := c
    obtain ⟨hv, hk, hw⟩ := (wf_cons k v m).mp hm
    have hka : k ≠ a := ha (k, v) (by simp)
    by_cases h : a < k
    · simp only [Memory.place, h, if_true]
      rw [wf_cons]
      refine ⟨hb, ?_, hm⟩
      intro c hc
      rcases List.mem_cons.mp hc with rfl | hc
      · exact h
      · exact lt_trans h (hk c hc)
    · simp only [Memory.place, h, if_false]
      rw [wf_cons]
      refine ⟨hv, ?_, ih hw (fun c hc => ha c (by simp [hc]))⟩
      intro c hc
      rcases mem_place m a b c hc with rfl | hc
      · show k < a
        omega
      · exact hk c hc

/-- A one-byte write keeps the canonical form. -/
theorem write_wf (m : Memory) (a : Nat) (b : Byte) (h : m.wf = true) : (m.write a b).wf = true := by
  unfold Memory.write
  split
  · exact without_wf m a h
  · exact place_wf _ a b (by assumption) (without_wf m a h) (mem_without_ne m a)

/-- A write of bytes keeps the canonical form. -/
theorem writeBytes_wf (m : Memory) (a : Nat) (d : List Byte) (h : m.wf = true) :
    (m.writeBytes a d).wf = true := by
  induction d generalizing m a with
  | nil => exact h
  | cons b d ih => exact ih _ _ (write_wf m a b h)

/-- A partly landed write keeps the canonical form. -/
theorem writeLanded_wf (m : Memory) (a : Nat) (d : List (Byte × Bool)) (h : m.wf = true) :
    (m.writeLanded a d).wf = true := by
  induction d generalizing m a with
  | nil => exact h
  | cons c d ih =>
    obtain ⟨b, l⟩ := c
    refine ih _ _ ?_
    cases l
    · exact h
    · exact write_wf m a b h

/-! ### Addresses that exist -/

theorem below_iff (m : Memory) (n : Nat) : m.below n = true ↔ ∀ c ∈ m, c.1 < n := by
  simp [Memory.below]

/-- A write below `n` keeps every listed address below `n`. -/
theorem write_below (m : Memory) (a n : Nat) (b : Byte) (h : m.below n = true) (ha : a < n) :
    (m.write a b).below n = true := by
  rw [below_iff] at *
  intro c hc
  unfold Memory.write at hc
  split at hc
  · exact h c (List.mem_filter.mp hc).1
  · rcases mem_place _ a b c hc with rfl | hc
    · exact ha
    · exact h c (List.mem_filter.mp hc).1

/-- A write of bytes below `n` keeps every listed address below `n`. -/
theorem writeBytes_below (m : Memory) (a n : Nat) (d : List Byte) (h : m.below n = true)
    (ha : a + d.length ≤ n) : (m.writeBytes a d).below n = true := by
  induction d generalizing m a with
  | nil => exact h
  | cons b d ih =>
    simp only [List.length_cons] at ha
    exact ih _ _ (write_below m a n b h (by omega)) (by omega)

/-- A partly landed write below `n` keeps every listed address below `n`. -/
theorem writeLanded_below (m : Memory) (a n : Nat) (d : List (Byte × Bool)) (h : m.below n = true)
    (ha : a + d.length ≤ n) : (m.writeLanded a d).below n = true := by
  induction d generalizing m a with
  | nil => exact h
  | cons c d ih =>
    obtain ⟨b, l⟩ := c
    simp only [List.length_cons] at ha
    refine ih _ _ ?_ (by omega)
    cases l
    · exact h
    · exact write_below m a n b h (by omega)

/-- The contents a power-up brings are in canonical form and lie below the memory's size. -/
theorem ofCells_wf_below (n : Nat) (cells : List Host.Cell) :
    (Memory.ofCells n cells).wf = true ∧ (Memory.ofCells n cells).below n = true := by
  unfold Memory.ofCells
  suffices h : ∀ m : Memory, m.wf = true → m.below n = true →
      (cells.foldl (fun m c => if c.1 < n then m.write c.1 c.2 else m) m).wf = true ∧
        (cells.foldl (fun m c => if c.1 < n then m.write c.1 c.2 else m) m).below n = true from
    h [] rfl rfl
  induction cells with
  | nil => exact fun m hw hb => ⟨hw, hb⟩
  | cons c cells ih =>
    intro m hw hb
    simp only [List.foldl_cons]
    by_cases hc : c.1 < n
    · simp only [hc, if_true]
      exact ih _ (write_wf m c.1 c.2 hw) (write_below m c.1 n c.2 hb hc)
    · simp only [hc, if_false]
      exact ih m hw hb

end Sys2Proof.Machine
end

