-- ==== Sys2Proof/Laws/State.lean ====
section
/-! SUPPORT. What each shared update of the state leaves in each field, so that no later proof unfolds a record update. -/

namespace Sys2Proof.Machine

/-! ### `raise` -/

@[simp] theorem raise_status (e : ErrCode) (s : State) : (raise e s).status = setErrSticky (setErrCode e s.status) := rfl
@[simp] theorem raise_seed (e : ErrCode) (s : State) : (raise e s).seed = s.seed := rfl
@[simp] theorem raise_addr (e : ErrCode) (s : State) : (raise e s).addr = s.addr := rfl
@[simp] theorem raise_len (e : ErrCode) (s : State) : (raise e s).len = s.len := rfl
@[simp] theorem raise_result (e : ErrCode) (s : State) : (raise e s).result = s.result := rfl
@[simp] theorem raise_chunkLen (e : ErrCode) (s : State) : (raise e s).chunkLen = s.chunkLen := rfl
@[simp] theorem raise_chunkType (e : ErrCode) (s : State) : (raise e s).chunkType = s.chunkType := rfl
@[simp] theorem raise_chunkCrc (e : ErrCode) (s : State) : (raise e s).chunkCrc = s.chunkCrc := rfl
@[simp] theorem raise_chunkNext (e : ErrCode) (s : State) : (raise e s).chunkNext = s.chunkNext := rfl
@[simp] theorem raise_mem (e : ErrCode) (s : State) : (raise e s).mem = s.mem := rfl
@[simp] theorem raise_config (e : ErrCode) (s : State) : (raise e s).config = s.config := rfl
@[simp] theorem raise_pending (e : ErrCode) (s : State) : (raise e s).pending = s.pending := rfl
@[simp] theorem raise_replies (e : ErrCode) (s : State) : (raise e s).replies = s.replies := rfl

/-! ### `succeed` -/

@[simp] theorem succeed_status (s : State) : (succeed s).status = setErrCode .none s.status := rfl
@[simp] theorem succeed_seed (s : State) : (succeed s).seed = s.seed := rfl
@[simp] theorem succeed_addr (s : State) : (succeed s).addr = s.addr := rfl
@[simp] theorem succeed_len (s : State) : (succeed s).len = s.len := rfl
@[simp] theorem succeed_result (s : State) : (succeed s).result = s.result := rfl
@[simp] theorem succeed_chunkLen (s : State) : (succeed s).chunkLen = s.chunkLen := rfl
@[simp] theorem succeed_chunkType (s : State) : (succeed s).chunkType = s.chunkType := rfl
@[simp] theorem succeed_chunkCrc (s : State) : (succeed s).chunkCrc = s.chunkCrc := rfl
@[simp] theorem succeed_chunkNext (s : State) : (succeed s).chunkNext = s.chunkNext := rfl
@[simp] theorem succeed_mem (s : State) : (succeed s).mem = s.mem := rfl
@[simp] theorem succeed_config (s : State) : (succeed s).config = s.config := rfl
@[simp] theorem succeed_pending (s : State) : (succeed s).pending = s.pending := rfl
@[simp] theorem succeed_replies (s : State) : (succeed s).replies = s.replies := rfl

/-! ### `writeResult` -/

@[simp] theorem writeResult_status (v : Word) (s : State) : (writeResult v s).status = setResValid s.status := rfl
@[simp] theorem writeResult_seed (v : Word) (s : State) : (writeResult v s).seed = s.seed := rfl
@[simp] theorem writeResult_addr (v : Word) (s : State) : (writeResult v s).addr = s.addr := rfl
@[simp] theorem writeResult_len (v : Word) (s : State) : (writeResult v s).len = s.len := rfl
@[simp] theorem writeResult_result (v : Word) (s : State) : (writeResult v s).result = v := rfl
@[simp] theorem writeResult_chunkLen (v : Word) (s : State) : (writeResult v s).chunkLen = s.chunkLen := rfl
@[simp] theorem writeResult_chunkType (v : Word) (s : State) : (writeResult v s).chunkType = s.chunkType := rfl
@[simp] theorem writeResult_chunkCrc (v : Word) (s : State) : (writeResult v s).chunkCrc = s.chunkCrc := rfl
@[simp] theorem writeResult_chunkNext (v : Word) (s : State) : (writeResult v s).chunkNext = s.chunkNext := rfl
@[simp] theorem writeResult_mem (v : Word) (s : State) : (writeResult v s).mem = s.mem := rfl
@[simp] theorem writeResult_config (v : Word) (s : State) : (writeResult v s).config = s.config := rfl
@[simp] theorem writeResult_pending (v : Word) (s : State) : (writeResult v s).pending = s.pending := rfl
@[simp] theorem writeResult_replies (v : Word) (s : State) : (writeResult v s).replies = s.replies := rfl

/-! ### `writeChunk` -/

@[simp] theorem writeChunk_status (a : Nat) (l : Word) (s : State) : (writeChunk a l s).status = setChunkValid (setResValid s.status) := rfl
@[simp] theorem writeChunk_seed (a : Nat) (l : Word) (s : State) : (writeChunk a l s).seed = s.seed := rfl
@[simp] theorem writeChunk_addr (a : Nat) (l : Word) (s : State) : (writeChunk a l s).addr = s.addr := rfl
@[simp] theorem writeChunk_len (a : Nat) (l : Word) (s : State) : (writeChunk a l s).len = s.len := rfl
@[simp] theorem writeChunk_result (a : Nat) (l : Word) (s : State) : (writeChunk a l s).result = chunkComputedCrc s.mem a l.toNat := rfl
@[simp] theorem writeChunk_chunkLen (a : Nat) (l : Word) (s : State) : (writeChunk a l s).chunkLen = l := rfl
@[simp] theorem writeChunk_chunkType (a : Nat) (l : Word) (s : State) : (writeChunk a l s).chunkType = s.mem.readBe32 (a + 4) := rfl
@[simp] theorem writeChunk_chunkCrc (a : Nat) (l : Word) (s : State) : (writeChunk a l s).chunkCrc = chunkStoredCrc s.mem a l.toNat := rfl
@[simp] theorem writeChunk_chunkNext (a : Nat) (l : Word) (s : State) : (writeChunk a l s).chunkNext = BitVec.ofNat 32 (a + 12 + l.toNat) := rfl
@[simp] theorem writeChunk_mem (a : Nat) (l : Word) (s : State) : (writeChunk a l s).mem = s.mem := rfl
@[simp] theorem writeChunk_config (a : Nat) (l : Word) (s : State) : (writeChunk a l s).config = s.config := rfl
@[simp] theorem writeChunk_pending (a : Nat) (l : Word) (s : State) : (writeChunk a l s).pending = s.pending := rfl
@[simp] theorem writeChunk_replies (a : Nat) (l : Word) (s : State) : (writeChunk a l s).replies = s.replies := rfl

/-! ### `resetRegisters` -/

@[simp] theorem resetRegisters_status (s : State) : (resetRegisters s).status = 0x00000000#32 := rfl
@[simp] theorem resetRegisters_seed (s : State) : (resetRegisters s).seed = 0x00000000#32 := rfl
@[simp] theorem resetRegisters_addr (s : State) : (resetRegisters s).addr = 0x00000000#32 := rfl
@[simp] theorem resetRegisters_len (s : State) : (resetRegisters s).len = 0x00000000#32 := rfl
@[simp] theorem resetRegisters_result (s : State) : (resetRegisters s).result = 0x00000000#32 := rfl
@[simp] theorem resetRegisters_chunkLen (s : State) : (resetRegisters s).chunkLen = 0x00000000#32 := rfl
@[simp] theorem resetRegisters_chunkType (s : State) : (resetRegisters s).chunkType = 0x00000000#32 := rfl
@[simp] theorem resetRegisters_chunkCrc (s : State) : (resetRegisters s).chunkCrc = 0x00000000#32 := rfl
@[simp] theorem resetRegisters_chunkNext (s : State) : (resetRegisters s).chunkNext = 0x00000000#32 := rfl
@[simp] theorem resetRegisters_mem (s : State) : (resetRegisters s).mem = s.mem := rfl
@[simp] theorem resetRegisters_config (s : State) : (resetRegisters s).config = s.config := rfl
@[simp] theorem resetRegisters_pending (s : State) : (resetRegisters s).pending = s.pending := rfl
@[simp] theorem resetRegisters_replies (s : State) : (resetRegisters s).replies = s.replies := rfl

end Sys2Proof.Machine
end

