-- ==== Sys2Proof/Laws/Ops.lean ====
section
/-! SUPPORT. For each shared operation, once, everything it can do: the provers cite these instead of unfolding it. -/

namespace Sys2Proof.Machine

/-- The range check as a fact about naturals (20_memory.md R74). -/
theorem inRange_iff (c : Config) (a n : Nat) : inRange c a n = true ↔ a + n ≤ c.memSize := by
  simp [inRange]

/-- An empty range holds no device. -/
@[simp] theorem deviceInRange_zero (c : Config) (a : Nat) : deviceInRange c a 0 = false := by
  simp only [deviceInRange, List.any_eq_false, overlaps, decide_eq_true_eq]
  intro r _
  omega

/-- Without devices no range holds one. -/
theorem deviceInRange_of_none (c : Config) (a n : Nat) (h : c.devices = []) : deviceInRange c a n = false := by
  simp [deviceInRange, h]

/-- A part of a range without a device has none. -/
theorem deviceInRange_mono (c : Config) {a n a' n' : Nat} (h : deviceInRange c a n = false)
    (h1 : a ≤ a') (h2 : a' + n' ≤ a + n) : deviceInRange c a' n' = false := by
  simp only [deviceInRange, List.any_eq_false, overlaps, decide_eq_true_eq] at *
  intro r hr
  have := h r hr
  omega

/-! ### A body behind its range check -/

theorem overRange_fits (a n : Nat) (s : State) (k : Host.Outcome State Fault Refusal)
    (h : a + n ≤ s.config.memSize) (hd : deviceInRange s.config a n = false) : overRange a n s k = k := by
  simp [overRange, inRange, h, hd]

theorem overRange_over (a n : Nat) (s : State) (k : Host.Outcome State Fault Refusal)
    (h : s.config.memSize < a + n) : overRange a n s k = .next (raise .range s) := by
  simp [overRange, inRange, Nat.not_le.mpr h]

theorem overRange_device (a n : Nat) (s : State) (k : Host.Outcome State Fault Refusal)
    (h : a + n ≤ s.config.memSize) (hd : deviceInRange s.config a n = true) :
    overRange a n s k = .refused .readSensitiveDevice := by
  simp [overRange, inRange, h, hd]

/-- A checked body that answers a next state either raised `RANGE` or ran. -/
theorem overRange_next (a n : Nat) (s t : State) (k : Host.Outcome State Fault Refusal)
    (h : overRange a n s k = .next t) :
    (s.config.memSize < a + n ∧ t = raise .range s) ∨
      (a + n ≤ s.config.memSize ∧ deviceInRange s.config a n = false ∧ k = .next t) := by
  unfold overRange at h
  split at h
  · split at h
    · cases h
    · exact .inr ⟨(inRange_iff _ _ _).mp (by assumption), eq_false_of_ne_true (by assumption), h⟩
  · refine .inl ⟨?_, by simpa using h.symm⟩
    have := ‹¬ inRange s.config a n = true›
    rw [inRange_iff] at this
    omega

/-- A host data access that answers a next state lies in data memory and reaches no device. -/
theorem overData_next (a n : Nat) (s t : State) (k : Host.Outcome State Fault Refusal)
    (h : overData a n s k = .next t) :
    a + n ≤ s.config.memSize ∧ deviceInRange s.config a n = false ∧ k = .next t := by
  unfold overData at h
  split at h
  · split at h
    · cases h
    · exact ⟨(inRange_iff _ _ _).mp (by assumption), eq_false_of_ne_true (by assumption), h⟩
  · cases h

/-- A host register access that answers a next state is a word access inside the window. -/
theorem overWindow_next (addr : Nat) (width : AccessWidth) (s t : State)
    (k : Nat → Host.Outcome State Fault Refusal) (h : overWindow addr width s k = .next t) :
    inWindow s.config addr = true ∧ wordAccess (addr - s.config.regBase) width = true ∧
      k (addr - s.config.regBase) = .next t := by
  unfold overWindow at h
  split at h
  · split at h
    · exact ⟨by assumption, by assumption, h⟩
    · cases h
  · cases h

/-! ### What a command can do -/

/-- The state a CRC command leaves on success (40_crc.md R149). -/
def crcDone (alg : CrcAlg) (s : State) : State :=
  succeed (writeResult (crcBy alg (s.mem.readBytes s.addr.toNat s.len.toNat) s.seed) s)

/-- All a CRC command can do (40_crc.md R149). -/
theorem crcCommand_next (alg : CrcAlg) (s t : State) (h : crcCommand alg s = .next t) :
    (s.config.memSize < s.addr.toNat + s.len.toNat ∧ t = raise .range s) ∨
      (s.addr.toNat + s.len.toNat ≤ s.config.memSize ∧
        deviceInRange s.config s.addr.toNat s.len.toNat = false ∧ t = crcDone alg s) := by
  rcases overRange_next _ _ _ _ _ h with ⟨hr, rfl⟩ | ⟨hr, hd, hk⟩
  · exact .inl ⟨hr, rfl⟩
  · exact .inr ⟨hr, hd, by simpa [crcDone] using hk.symm⟩

/-- All a store can do (41_chunk_store.md R180, R181). -/
theorem storeCommand_next (d : List Byte) (s t : State) (h : storeCommand d s = .next t) :
    (s.config.memSize < s.addr.toNat + 4 ∧ t = raise .range s) ∨
      (s.addr.toNat + 4 ≤ s.config.memSize ∧ deviceInRange s.config s.addr.toNat 4 = false ∧
        t = succeed { s with mem := s.mem.writeBytes s.addr.toNat d }) := by
  rcases overRange_next _ _ _ _ _ h with ⟨hr, rfl⟩ | ⟨hr, hd, hk⟩
  · exact .inl ⟨hr, rfl⟩
  · exact .inr ⟨hr, hd, by simpa using hk.symm⟩

/-- The state the register writes of a chunk check leave, before its verdict (41_chunk_store.md R171). -/
def chunkWritten (s : State) : State :=
  writeChunk s.addr.toNat (chunkLength s.mem s.addr.toNat) s

/-- All a chunk check can do (41_chunk_store.md R171). -/
theorem execChunkChk_next (s t : State) (h : execChunkChk s = .next t) :
    (s.config.memSize < s.addr.toNat + 12 + (chunkLength s.mem s.addr.toNat).toNat ∧ t = raise .range s) ∨
      (s.addr.toNat + 12 + (chunkLength s.mem s.addr.toNat).toNat ≤ s.config.memSize ∧
        deviceInRange s.config s.addr.toNat (12 + (chunkLength s.mem s.addr.toNat).toNat) = false ∧
        t = if (chunkWritten s).result = (chunkWritten s).chunkCrc then succeed (chunkWritten s)
          else raise .crcMismatch (chunkWritten s)) := by
  rcases overRange_next _ _ _ _ _ h with ⟨hr, rfl⟩ | ⟨_, _, hk⟩
  · exact .inl ⟨by omega, rfl⟩
  · rcases overRange_next _ _ _ _ _ hk with ⟨hr, rfl⟩ | ⟨hr, hd, hk⟩
    · exact .inl ⟨by omega, rfl⟩
    · exact .inr ⟨by omega, hd, (Host.Outcome.next.inj hk).symm⟩

/-- All a command can do, in three cases: it raised `RANGE`, or it wrote its results, or it stored. -/
theorem exec_next (i : Instr) (s t : State) (h : exec i s = .next t) :
    t = raise .range s ∨ (∃ alg, t = crcDone alg s) ∨
      (i = .chunkChk ∧ (t = succeed (chunkWritten s) ∨ t = raise .crcMismatch (chunkWritten s))) ∨
      (s.addr.toNat + 4 ≤ s.config.memSize ∧
        ∃ d, d.length = 4 ∧ storedBytes i s.result = some d ∧
          t = succeed { s with mem := s.mem.writeBytes s.addr.toNat d }) := by
  have crcCase : ∀ alg, crcCommand alg s = .next t → t = raise .range s ∨ ∃ alg, t = crcDone alg s := by
    intro alg ha
    rcases crcCommand_next alg s t ha with ⟨_, rfl⟩ | ⟨_, _, rfl⟩
    · exact .inl rfl
    · exact .inr ⟨alg, rfl⟩
  have storeCase : ∀ d, d.length = 4 → storedBytes i s.result = some d → storeCommand d s = .next t →
      t = raise .range s ∨ (s.addr.toNat + 4 ≤ s.config.memSize ∧ ∃ d, d.length = 4 ∧
        storedBytes i s.result = some d ∧ t = succeed { s with mem := s.mem.writeBytes s.addr.toNat d }) := by
    intro d hl hd hs
    rcases storeCommand_next d s t hs with ⟨_, rfl⟩ | ⟨hr, _, rfl⟩
    · exact .inl rfl
    · exact .inr ⟨hr, d, hl, hd, rfl⟩
  cases i with
  | crcBit => exact (crcCase _ h).imp_right .inl
  | crcNib => exact (crcCase _ h).imp_right .inl
  | crcByte => exact (crcCase _ h).imp_right .inl
  | crcS4 => exact (crcCase _ h).imp_right .inl
  | crc => exact (crcCase _ h).imp_right .inl
  | chunkChk =>
    rcases execChunkChk_next s t h with ⟨_, rfl⟩ | ⟨_, _, ht⟩
    · exact .inl rfl
    · refine .inr (.inr (.inl ⟨rfl, ?_⟩))
      split at ht
      · exact .inl ht
      · exact .inr ht
  | storeBe => exact (storeCase _ rfl rfl h).imp_right fun x => .inr (.inr x)
  | storeLe => exact (storeCase _ rfl rfl h).imp_right fun x => .inr (.inr x)

/-- A write to `CMD` runs a command or raises `ILLEGAL_CMD` (30_encoding.md R104). -/
theorem issueCommand_next (w : Word) (s t : State) (h : issueCommand w s = .next t) :
    (decode w = none ∧ t = raise .illegalCmd s) ∨ ∃ i, decode w = some i ∧ exec i s = .next t := by
  unfold issueCommand at h
  split at h
  · exact .inr ⟨_, by assumption, h⟩
  · exact .inl ⟨by assumption, by simpa using h.symm⟩

/-! ### What an event from outside can do -/

/-- The memory an abandoned command leaves keeps the canonical form and stays below `MEM_SIZE` (70_reset_and_hazards.md R231). -/
theorem memAfterAbandon_wf_below (w : Word) (landed : List Bool) (s : State) :
    (s.mem.wf = true → (memAfterAbandon w landed s).wf = true) ∧
      (s.mem.below s.config.memSize = true → (memAfterAbandon w landed s).below s.config.memSize = true) := by
  unfold memAfterAbandon
  split
  · rename_i data hd
    have hlen : data.length = 4 := by
      cases hi : decode w with
      | none => rw [hi] at hd; cases hd
      | some i => rw [hi] at hd; cases i <;> cases hd <;> rfl
    split
    · rename_i hr
      rw [inRange_iff] at hr
      refine ⟨writeLanded_wf _ _ _, fun hb => writeLanded_below _ _ _ _ hb ?_⟩
      have : (data.zip landed).length ≤ 4 := by simp [hlen]
      omega
    · exact ⟨id, id⟩
  · exact ⟨id, id⟩

/-- An abandoned command that answers a next state has reset the registers (70_reset_and_hazards.md R231). -/
theorem abandonCommand_next (w : Word) (landed : List Bool) (s t : State) (h : abandonCommand w landed s = .next t) :
    t = { resetRegisters s with mem := memAfterAbandon w landed s } := by
  unfold abandonCommand at h
  split at h
  · simpa using h.symm
  · cases h
  · cases h

/-- All an event from outside can do: run a command, write a register, do nothing, answer a read, write data memory, or reset the
window (70_reset_and_hazards.md R255). -/
theorem handle_next (e : HostEvent) (s t : State) (h : handle e s = .next t) :
    (∃ w, e = .regWrite s.config.regBase .word w ∧ issueCommand w s = .next t) ∨
      (e.isReset = false ∧ ∃ r v, t = writeReg r v s) ∨
      (e.isReset = false ∧ ∃ r, t = { s with replies := r :: s.replies }) ∨
      (∃ a d, e = .dataWrite a d ∧ a + d.length ≤ s.config.memSize ∧
        t = { s with mem := s.mem.writeBytes a d }) ∨
      (e.isReset = true ∧ ∃ m : Memory, t = { resetRegisters s with mem := m } ∧
        (s.mem.wf = true → m.wf = true) ∧
        (s.mem.below s.config.memSize = true → m.below s.config.memSize = true)) := by
  cases e with
  | regWrite addr width v =>
    obtain ⟨hw, ha, hk⟩ := overWindow_next _ _ _ _ _ (by simpa only [handle, hostRegWrite] using h)
    unfold writeOffset at hk
    split at hk
    · rename_i hreg
      have h0 : addr - s.config.regBase = 0 := by
        unfold regAt at hreg
        split at hreg <;> first | assumption | cases hreg
      simp only [inWindow, Bool.and_eq_true, decide_eq_true_eq] at hw
      simp only [wordAccess, Bool.and_eq_true, beq_iff_eq] at ha
      have hb : addr = s.config.regBase := by omega
      exact .inl ⟨v, by rw [hb, ha.1], hk⟩
    · exact .inr (.inl ⟨rfl, _, _, (Host.Outcome.next.inj hk).symm⟩)
    · exact .inr (.inl ⟨rfl, .cmd, v, (Host.Outcome.next.inj hk).symm⟩)
  | regRead addr width =>
    obtain ⟨_, _, hk⟩ := overWindow_next _ _ _ _ _ (by simpa only [handle, hostRegRead] using h)
    exact .inr (.inr (.inl ⟨rfl, _, (Host.Outcome.next.inj hk).symm⟩))
  | dataWrite a d =>
    obtain ⟨hr, _, hk⟩ := overData_next _ _ _ _ _ (by simpa only [handle, hostDataWrite] using h)
    exact .inr (.inr (.inr (.inl ⟨a, d, rfl, hr, (Host.Outcome.next.inj hk).symm⟩)))
  | dataRead a n =>
    obtain ⟨_, _, hk⟩ := overData_next _ _ _ _ _ (by simpa only [handle, hostDataRead] using h)
    exact .inr (.inr (.inl ⟨rfl, _, (Host.Outcome.next.inj hk).symm⟩))
  | reset =>
    exact .inr (.inr (.inr (.inr ⟨rfl, s.mem, (Host.Outcome.next.inj h).symm, id, id⟩)))
  | powerUp cells =>
    have hc := ofCells_wf_below s.config.memSize cells
    exact .inr (.inr (.inr (.inr ⟨rfl, _, (Host.Outcome.next.inj h).symm, fun _ => hc.1, fun _ => hc.2⟩)))
  | resetDuring w l0 l1 l2 l3 =>
    have hm := memAfterAbandon_wf_below w [l0, l1, l2, l3] s
    exact .inr (.inr (.inr (.inr ⟨rfl, _, abandonCommand_next _ _ _ _ h, hm.1, hm.2⟩)))

/-- The step takes the first outstanding event and handles it. -/
theorem step_pending (s : State) (e : HostEvent) (rest : List HostEvent) (h : s.pending = e :: rest) :
    step s = handle e { s with pending := rest } := by
  simp [step, stepOnce, h]

/-- With nothing outstanding the step changes nothing (log 5). -/
theorem step_idle (s : State) (h : s.pending = []) : step s = .next s := by
  simp [step, stepOnce, h]

end Sys2Proof.Machine
end

