-- ==== Sys2Proof/Laws/PerInstr.lean ====
section
/-! SUPPORT. Statements about every command, one lemma per constructor. -/

namespace Sys2Proof.Laws

/-- Decoding a command's word gives the command back, and the word passes the field checks (30_encoding.md R104, R107). -/
def RoundTrip.Statement (i : Instr) : Prop :=
  i.wf = true ∧ wordWf (encode i) = true ∧ decode (encode i) = some i

theorem RoundTrip.crcBit : RoundTrip.Statement .crcBit := by unfold RoundTrip.Statement; decide

theorem RoundTrip.crcNib : RoundTrip.Statement .crcNib := by unfold RoundTrip.Statement; decide

theorem RoundTrip.crcByte : RoundTrip.Statement .crcByte := by unfold RoundTrip.Statement; decide

theorem RoundTrip.crcS4 : RoundTrip.Statement .crcS4 := by unfold RoundTrip.Statement; decide

theorem RoundTrip.crc : RoundTrip.Statement .crc := by unfold RoundTrip.Statement; decide

theorem RoundTrip.chunkChk : RoundTrip.Statement .chunkChk := by unfold RoundTrip.Statement; decide

theorem RoundTrip.storeBe : RoundTrip.Statement .storeBe := by unfold RoundTrip.Statement; decide

theorem RoundTrip.storeLe : RoundTrip.Statement .storeLe := by unfold RoundTrip.Statement; decide

end Sys2Proof.Laws
end

