-- ==== Sys2Proof/Tests/Slice0.lean ====
section
/-! SUPPORT. Tests on fixed values, each with its expected result from spec/ (the vector or rule is named), and for every statement
with hypotheses the values that meet them (theorems `meets_…`). -/

open Sys2Proof Sys2Proof.Machine Sys2Proof.Statements

namespace Sys2Proof.Tests

/-- The state in which an outcome goes on. -/
def nextOf : Host.Outcome State Fault Refusal → Option State
  | .next s => some s
  | .fault _ => none
  | .refused _ => none

/-- `STATUS` and `RESULT` after an outcome. -/
def statusResult (o : Host.Outcome State Fault Refusal) : Option (Word × Word) :=
  (nextOf o).map (fun t => (t.status, t.result))

/-- The reset state with `size` bytes of data memory, of which those from `a` upward hold `data`. -/
def loaded (size a : Nat) (data : List Byte) : State :=
  { State.reset with
    config := { memSize := size, regBase := 0x100, devices := [] }
    mem := Memory.writeBytes [] a data }

/-- `loaded` with the operands of a CRC command. -/
def crcState (a : Nat) (data : List Byte) (seed addr len : Word) : State :=
  { loaded 0x1000 a data with seed := seed, addr := addr, len := len }

/-- The bytes of "123456789". -/
def digits : List Byte :=
  [0x31#8, 0x32#8, 0x33#8, 0x34#8, 0x35#8, 0x36#8, 0x37#8, 0x38#8, 0x39#8]

/-- The `IEND` chunk of vector K1. -/
def iend : List Byte :=
  [0x00#8, 0x00#8, 0x00#8, 0x00#8, 0x49#8, 0x45#8, 0x4E#8, 0x44#8, 0xAE#8, 0x42#8, 0x60#8, 0x82#8]

/-- Vector K6: the `IEND` chunk in the last 12 bytes of a memory of 0x40 bytes. -/
def chunkAtEnd : State := { loaded 0x40 0x34 iend with addr := 0x34#32 }

/-- 0x40 bytes of data memory with a read-sensitive device at 0x20 to 0x23. -/
def withDevice (addr len : Word) : State :=
  { State.reset with
    config := { memSize := 0x40, regBase := 0x100, devices := [{ base := 0x20, size := 4 }] }
    addr := addr
    len := len }

/-! ### Decoding (30_encoding.md R105, R107; vectors DC1 to DC15) -/

/-- The words of R105, written bit by bit from bit 31 down to bit 0. -/
theorem test_decode_table_words :
    decode 0b00000000000000000000000000000001#32 = some .crcBit ∧
    decode 0b00000000000000000000000000000010#32 = some .crcNib ∧
    decode 0b00000000000000000000000000000011#32 = some .crcByte ∧
    decode 0b00000000000000000000000000000100#32 = some .crcS4 ∧
    decode 0b00000000000000000000000000000101#32 = some .crc ∧
    decode 0b00000000000000000000000000010000#32 = some .chunkChk ∧
    decode 0b00000000000000000000000000100000#32 = some .storeBe ∧
    decode 0b00000000000000000000000100100000#32 = some .storeLe := by
  refine ⟨?_, ?_, ?_, ?_, ?_, ?_, ?_, ?_⟩ <;> decide

/-- DC1, DC4, DC5, DC7, DC10 to DC15. -/
theorem test_decode_illegal_words :
    [0x00000000#32, 0x00000006#32, 0x0000000F#32, 0x00000011#32, 0x00000101#32].map decode = List.replicate 5 none ∧
    [0x00000110#32, 0x00000220#32, 0x80000005#32, 0x000000FF#32, 0xFFFFFFFF#32].map decode = List.replicate 5 none := by
  constructor <;> rfl

/-- No two rows of the opcode map cover one word: the masks are full and the patterns differ (R104). -/
theorem test_rows_do_not_overlap :
    opcodeTable.Pairwise (fun r q => r.mask = 0xFFFFFFFF#32 ∧ q.mask = 0xFFFFFFFF#32 ∧ r.pattern ≠ q.pattern) := by decide

/-- The host's entry reads the same words, and refuses one with a bit above bit 31. -/
theorem test_decode_table_word :
    decodeTableWord 32 0x120 = some .storeLe ∧ decodeTableWord 32 0x20 = some .storeBe ∧
    decodeTableWord 40 0x100000005 = none := by decide

/-! ### WellFormed: each check refuses an ill-formed term -/

/-- `MEM_SIZE` 0 and 2^32 + 1 are refused, 1 and 2^32 are not (00_scope.md R11). -/
theorem test_memSizeOk_refuses :
    Config.memSizeOk { memSize := 0, regBase := 0, devices := [] } = false ∧
    Config.memSizeOk { memSize := 2 ^ 32 + 1, regBase := 0, devices := [] } = false ∧
    Config.memSizeOk { memSize := 1, regBase := 0, devices := [] } = true ∧
    Config.memSizeOk { memSize := 2 ^ 32, regBase := 0, devices := [] } = true := by decide

/-- A `REG_BASE` that is no multiple of 256 is refused (00_scope.md R12). -/
theorem test_regBaseOk_refuses :
    Config.regBaseOk { memSize := 1, regBase := 0x1FF, devices := [] } = false ∧
    Config.wf { memSize := 1, regBase := 0x1FF, devices := [] } = false ∧
    Config.wf { memSize := 0, regBase := 0x100, devices := [] } = false ∧
    Config.wf { memSize := 1, regBase := 0x100, devices := [] } = true := by decide

/-- A reserved bit, `ORD` off the store, and an unused `OP` are each refused by their check (R102, R103, R107). -/
theorem test_word_checks_refuse :
    wordRsvOk 0x00000205#32 = false ∧ wordOrdOk 0x00000105#32 = false ∧ wordOpOk 0x00000021#32 = false ∧
    wordWf 0x00000205#32 = false ∧ wordWf 0x00000105#32 = false ∧ wordWf 0x00000021#32 = false ∧
    wordWf 0x00000120#32 = true := by decide

/-- A command has no operand, so none is ill formed (R106). -/
theorem test_every_command_is_well_formed :
    ∀ i ∈ [Instr.crcBit, .crcNib, .crcByte, .crcS4, .crc, .chunkChk, .storeBe, .storeLe], i.wf = true := by decide

/-! ### The commands (95_test_vectors.md) -/

/-- V9: "a" with seed 0x12345678. -/
theorem test_crcBit_v9 :
    statusResult (exec .crcBit (crcState 0x100 [0x61#8] 0x12345678#32 0x100#32 1#32)) =
      some (0x00010000#32, 0xB67B731B#32) := by decide

/-- RG5: zero length past the end of memory is `RANGE`. -/
theorem test_crcBit_rg5 :
    statusResult (exec .crcBit (crcState 0 [] 0x12345678#32 0x1001#32 0#32)) = some (0x00000102#32, 0#32) := by decide

/-- V13 at an odd address. -/
theorem test_crcNib_v13 :
    statusResult (exec .crcNib (crcState 0x103 digits 0#32 0x103#32 9#32)) =
      some (0x00010000#32, 0xCBF43926#32) := by decide

/-- RG7: the sum of address and length does not wrap. -/
theorem test_crcNib_rg7 :
    statusResult (exec .crcNib (crcState 0 [] 0#32 1#32 0xFFFFFFFF#32)) = some (0x00000102#32, 0#32) := by decide

/-- V17: the all-ones seed over real data. -/
theorem test_crcByte_v17 :
    statusResult (exec .crcByte (crcState 0x100 digits 0xFFFFFFFF#32 0x100#32 9#32)) =
      some (0x00010000#32, 0xD202D277#32) := by decide

/-- V6: only bit 0 set. -/
theorem test_crcByte_v6 :
    statusResult (exec .crcByte (crcState 0x100 [0x01#8] 0#32 0x100#32 1#32)) =
      some (0x00010000#32, 0xA505DF1B#32) := by decide

/-- The prefix of 7 digits: one slicing group and a tail of three. -/
theorem test_crcS4_prefix7 :
    statusResult (exec .crcS4 (crcState 0x100 digits 0#32 0x100#32 7#32)) =
      some (0x00010000#32, 0x5003699F#32) := by decide

/-- V13 at an odd address: two slicing groups and a tail of one. -/
theorem test_crcS4_v13 :
    statusResult (exec .crcS4 (crcState 0x101 digits 0#32 0x101#32 9#32)) =
      some (0x00010000#32, 0xCBF43926#32) := by decide

/-- V15: the second piece of a chain. -/
theorem test_crc_v15 :
    statusResult (exec .crc (crcState 0x100 (digits.drop 4) 0x9BE3E0A3#32 0x100#32 5#32)) =
      some (0x00010000#32, 0xCBF43926#32) := by decide

/-- RG2 and RG1: the last byte of memory, and one past it. -/
theorem test_crc_rg2_rg1 :
    statusResult (exec .crc (crcState 0xFFF [0x61#8] 0#32 0xFFF#32 1#32)) = some (0x00010000#32, 0xE8B7BE43#32) ∧
    statusResult (exec .crc (crcState 0xFFF [0x61#8] 0#32 0xFFF#32 2#32)) = some (0x00000102#32, 0#32) := by decide

/-- K6: the chunk that ends exactly at `MEM_SIZE`. -/
theorem test_chunkChk_k6 :
    (nextOf (exec .chunkChk chunkAtEnd)).map
        (fun t => (t.status, t.result, t.chunkLen, t.chunkType, t.chunkCrc, t.chunkNext)) =
      some (0x00030000#32, 0xAE426082#32, 0#32, 0x49454E44#32, 0xAE426082#32, 0x40#32) := by decide

/-- K3: a corrupted `IHDR` payload. -/
theorem test_chunkChk_k3 :
    (nextOf (exec .chunkChk { loaded 0x1000 8
          [0x00#8, 0x00#8, 0x00#8, 0x0D#8, 0x49#8, 0x48#8, 0x44#8, 0x52#8, 0x00#8, 0x00#8, 0x00#8, 0x01#8, 0x00#8, 0x00#8, 0x00#8,
            0x01#8, 0x10#8, 0x02#8, 0x00#8, 0x00#8, 0x00#8, 0x90#8, 0x77#8, 0x53#8, 0xDE#8] with addr := 8#32 })).map
        (fun t => (t.status, t.result, t.chunkLen, t.chunkType, t.chunkCrc, t.chunkNext)) =
      some (0x00030103#32, 0xC0E78F9D#32, 0x0D#32, 0x49484452#32, 0x907753DE#32, 0x21#32) := by decide

/-- ST1. -/
theorem test_storeBe_st1 :
    (nextOf (exec .storeBe { loaded 0x1000 0 [] with addr := 0x10#32, result := 0xAE426082#32 })).map
        (fun t => (t.status, t.mem.readBytes 0x10 4)) =
      some (0#32, [0xAE#8, 0x42#8, 0x60#8, 0x82#8]) := by decide

/-- ST4 and ST7: a store that does not fit writes nothing. -/
theorem test_storeBe_st4_st7 :
    (nextOf (exec .storeBe { loaded 0x1000 0 [] with addr := 0xFFD#32, result := 0x12345678#32 })).map
        (fun t => (t.status, t.mem)) = some (0x00000102#32, []) ∧
    (nextOf (exec .storeBe { loaded 0x1000 0 [] with addr := 0xFFFFFFFE#32, result := 0x12345678#32 })).map
        (fun t => (t.status, t.mem)) = some (0x00000102#32, []) := by decide

/-- ST3: the highest address that fits. -/
theorem test_storeLe_st3 :
    (nextOf (exec .storeLe { loaded 0x1000 0 [] with addr := 0xFFC#32, result := 0x12345678#32 })).map
        (fun t => (t.status, t.mem.readBytes 0xFFC 4)) =
      some (0#32, [0x78#8, 0x56#8, 0x34#8, 0x12#8]) := by decide

/-- Every row of the opcode table, prepared as the first instruction after reset, is what the next step runs. -/
theorem test_first_instruction_runs :
    ∀ i ∈ [Instr.crcBit, .crcNib, .crcByte, .crcS4, .crc, .chunkChk, .storeBe, .storeLe],
      nextOf (step (State.reset.withFetchWord 32 (encode i).toNat)) = nextOf (exec i State.reset) ∧
        (nextOf (exec i State.reset)).isSome = true := by decide

/-- The check entries of R144. -/
theorem test_slicing_check_entries :
    [0x01, 0x02, 0x03, 0x04, 0x10, 0x80, 0xFF].map s1 =
      [0x191B3141#32, 0x32366282#32, 0x2B2D53C3#32, 0x646CC504#32, 0x4AC21251#32, 0x3B83984B#32, 0x9324FD72#32] ∧
    [0x01, 0x02, 0x03, 0x04, 0x10, 0x80, 0xFF].map s2 =
      [0x01C26A37#32, 0x0384D46E#32, 0x0246BE59#32, 0x0709A8DC#32, 0x1C26A370#32, 0xE1351B80#32, 0xBE9834ED#32] ∧
    [0x01, 0x02, 0x03, 0x04, 0x10, 0x80, 0xFF].map s3 =
      [0xB8BC6765#32, 0xAA09C88B#32, 0x12B5AFEE#32, 0x8F629757#32, 0x5019579F#32, 0xED59B63B#32, 0xDE0506F1#32] := by decide

/-! ### The register window (vectors RA1 to RA9) -/

/-- RA2 to RA4: only bit 8 of the value written counts, and only `ERR_STICKY` is cleared. -/
theorem test_status_write :
    [0x00000100#32, 0x00000000#32, 0xFFFFFFFF#32].map (fun v =>
      (nextOf (step { State.reset with status := 0x00010102#32, pending := [.regWrite 4 .word v] })).map (fun t => t.status)) =
      [some 0x00010002#32, some 0x00010102#32, some 0x00010002#32] := by decide

/-- RA5, RA8, RA9: a read-only register ignores a write, `SEED` takes it, a reserved offset ignores it. -/
theorem test_register_writes :
    (nextOf (step { State.reset with result := 0xCBF43926#32, pending := [.regWrite 0x14 .word 0#32] })).map
        (fun t => t.result) = some 0xCBF43926#32 ∧
    (nextOf (step { State.reset with pending := [.regWrite 0x08 .word 0xDEADBEEF#32] })).map
        (fun t => t.seed) = some 0xDEADBEEF#32 ∧
    nextOf (step { State.reset with pending := [.regWrite 0x40 .word 0x11223344#32] }) = some State.reset := by decide

/-- RA6, RA7: `CMD` and the reserved offsets read 0. -/
theorem test_register_reads :
    ∀ a ∈ [0x00, 0x28, 0x80, 0xFC],
      (nextOf (step { State.reset with seed := 7#32, pending := [.regRead a .word] })).map (fun t => t.replies) =
        some [Reply.word 0#32] := by decide

/-- R231: a reset during `STORE.BE` may leave any of the four bytes new. -/
theorem test_reset_during_store :
    (nextOf (step { State.reset with
        result := 0xAE426082#32, pending := [.resetDuring 0x20#32 true false false true] })).map
      (fun t => (t.status, t.result, t.mem.readBytes 0 4)) =
      some (0#32, 0#32, [0xAE#8, 0x00#8, 0x00#8, 0x82#8]) := by decide

/-! ### Values that meet the hypotheses of the statements, one theorem for each statement, each clause at a boundary -/

/-- IllegalWordRaisesIllegalCmd: words that are not in the table; RSV at its lowest and highest bit, ORD on another operation, and OP at the ends of each unused range. -/
theorem meets_IllegalWordRaisesIllegalCmd :
    (0x00000000#32 ∉ tableWords ∧ 0x00000121#32 ∉ tableWords) ∧
    FieldsIllegal 0x00000201#32 ∧ FieldsIllegal 0x80000005#32 ∧ FieldsIllegal 0x00000101#32 ∧ FieldsIllegal 0x00000000#32 ∧
    FieldsIllegal 0x00000006#32 ∧ FieldsIllegal 0x0000000F#32 ∧ FieldsIllegal 0x00000011#32 ∧ FieldsIllegal 0x0000001F#32 ∧
    FieldsIllegal 0x00000021#32 ∧ FieldsIllegal 0x000000FF#32 := by
  unfold FieldsIllegal
  refine ⟨?_, ?_, ?_, ?_, ?_, ?_, ?_, ?_, ?_, ?_, ?_⟩ <;> decide

/-- StepRunsDecodedCommand, with the step it speaks of taken to a next state. -/
theorem meets_StepRunsDecodedCommand :
    decode 0x00000120#32 = some .storeLe ∧
    (nextOf (step (withCommand 0x00000120#32 [.reset] (loaded 0x40 0 [])))).map (fun t => t.pending) = some [.reset] := by
  decide

/-- IdleStepChangesNothing. -/
theorem meets_IdleStepChangesNothing : chunkAtEnd.pending = [] := rfl

/-- CommandsAlwaysComplete. -/
theorem meets_CommandsAlwaysComplete : chunkAtEnd.config.devices = [] := rfl

/-- OneByteChangeChangesCrc, with the two results. -/
theorem meets_OneByteChangeChangesCrc :
    (0x00#8 : Byte) ≠ 0x01#8 ∧ crc32 ([] ++ 0x00#8 :: []) 0#32 = 0xD202EF8D#32 ∧
    crc32 ([] ++ 0x01#8 :: []) 0#32 = 0xA505DF1B#32 := by decide

/-- CrcBitCommand: a range that ends at `MEM_SIZE`, right before a device or right after it; ranges one byte too long. -/
theorem meets_CrcBitCommand :
    ((withDevice 0x24#32 0x1C#32).addr.toNat + (withDevice 0x24#32 0x1C#32).len.toNat ≤ 0x40 ∧
      NoDevice (withDevice 0x24#32 0x1C#32).config 0x24 0x1C) ∧
    ((withDevice 0x00#32 0x20#32).addr.toNat + (withDevice 0x00#32 0x20#32).len.toNat ≤ 0x40 ∧
      NoDevice (withDevice 0x00#32 0x20#32).config 0x00 0x20) ∧
    0x40 < (withDevice 0x24#32 0x1D#32).addr.toNat + (withDevice 0x24#32 0x1D#32).len.toNat := by
  unfold NoDevice; decide

/-- CrcNibCommand: no byte at `MEM_SIZE`, and no byte past it. -/
theorem meets_CrcNibCommand :
    ((withDevice 0x40#32 0#32).addr.toNat + (withDevice 0x40#32 0#32).len.toNat ≤ 0x40 ∧
      NoDevice (withDevice 0x40#32 0#32).config 0x40 0) ∧
    0x40 < (withDevice 0x41#32 0#32).addr.toNat + (withDevice 0x41#32 0#32).len.toNat := by
  unfold NoDevice; decide

/-- CrcByteCommand: the last byte of memory; a length that would wrap. -/
theorem meets_CrcByteCommand :
    ((withDevice 0x3F#32 1#32).addr.toNat + (withDevice 0x3F#32 1#32).len.toNat ≤ 0x40 ∧
      NoDevice (withDevice 0x3F#32 1#32).config 0x3F 1) ∧
    0x40 < (withDevice 1#32 0xFFFFFFFF#32).addr.toNat + (withDevice 1#32 0xFFFFFFFF#32).len.toNat := by
  unfold NoDevice; decide

/-- CrcS4Command: the whole memory; one byte more. -/
theorem meets_CrcS4Command :
    ((loaded 0x40 0 []).addr.toNat + ({ loaded 0x40 0 [] with len := 0x40#32 } : State).len.toNat ≤ 0x40 ∧
      NoDevice (loaded 0x40 0 []).config 0 0x40) ∧
    0x40 < (loaded 0x40 0 []).addr.toNat + ({ loaded 0x40 0 [] with len := 0x41#32 } : State).len.toNat := by
  unfold NoDevice; decide

/-- CrcWrapperCommand: the first byte; an address that would wrap. -/
theorem meets_CrcWrapperCommand :
    ((withDevice 0#32 1#32).addr.toNat + (withDevice 0#32 1#32).len.toNat ≤ 0x40 ∧
      NoDevice (withDevice 0#32 1#32).config 0 1) ∧
    0x40 < (withDevice 0xFFFFFFFF#32 1#32).addr.toNat + (withDevice 0xFFFFFFFF#32 1#32).len.toNat := by
  unfold NoDevice; decide

/-- ChainedCommandsMatchWhole: nine digits split after four, ending at `MEM_SIZE`. -/
theorem meets_ChainedCommandsMatchWhole :
    Instr.crcBit ∈ crcFamily ∧ Instr.crcS4 ∈ crcFamily ∧ Instr.crc ∈ crcFamily ∧
    (loaded 0x109 0x100 digits).config.wf = true ∧ 4 + 5 < 2 ^ 32 ∧
    ({ loaded 0x109 0x100 digits with addr := 0x100#32 } : State).addr.toNat + 4 + 5 ≤ 0x109 ∧
    NoDevice (loaded 0x109 0x100 digits).config 0x100 (4 + 5) := by
  unfold NoDevice; decide

/-- RepeatedCrcCommandIsStable: both cases of its hypothesis. -/
theorem meets_RepeatedCrcCommandIsStable :
    Instr.crcNib ∈ crcFamily ∧
    0x40 < (withDevice 0x3F#32 2#32).addr.toNat + (withDevice 0x3F#32 2#32).len.toNat ∧
    NoDevice (withDevice 0x3F#32 1#32).config 0x3F 1 := by
  unfold NoDevice; decide

/-- ChunkCheckCommand: a header one byte too long (K8), a chunk one byte too long, a good chunk that ends at `MEM_SIZE` (K6), and the
same chunk with its stored CRC reversed (K5). -/
theorem meets_ChunkCheckCommand :
    (let s : State := { loaded 0x40 0 [] with addr := 0x39#32 }
     s.config.memSize < s.addr.toNat + 8) ∧
    (let s : State := { loaded 0x40 0x34 [0x00#8, 0x00#8, 0x00#8, 0x01#8] with addr := 0x34#32 }
     s.addr.toNat + 8 ≤ s.config.memSize ∧ NoDevice s.config s.addr.toNat 8 ∧
       s.config.memSize < s.addr.toNat + 12 + chunkL s) ∧
    (ChunkFits chunkAtEnd ∧ chunkCrcOf chunkAtEnd = wordAt chunkAtEnd (0x34 + 8 + chunkL chunkAtEnd)) ∧
    (let s : State := { chunkAtEnd with mem := chunkAtEnd.mem.writeBytes 0x3C [0x82#8, 0x60#8, 0x42#8, 0xAE#8] }
     ChunkFits s ∧ chunkCrcOf s ≠ wordAt s (0x34 + 8 + chunkL s)) := by
  unfold ChunkFits NoDevice; decide +kernel

/-- OneByteCorruptionIsDetected: the first byte of the type tag and the last of the stored CRC of a chunk that passes. -/
theorem meets_OneByteCorruptionIsDetected :
    ChunkFits chunkAtEnd ∧ chunkCrcOf chunkAtEnd = wordAt chunkAtEnd (chunkAtEnd.addr.toNat + 8 + chunkL chunkAtEnd) ∧
    ∀ x ∈ [0x38, 0x3F], chunkAtEnd.addr.toNat + 4 ≤ x ∧ x < chunkAtEnd.addr.toNat + 12 + chunkL chunkAtEnd ∧
      0xFF#8 ≠ chunkAtEnd.mem.read x := by
  unfold ChunkFits NoDevice; decide +kernel

/-- BuiltChunkPassesCheck: a chunk of no payload that ends at `MEM_SIZE`. -/
theorem meets_BuiltChunkPassesCheck :
    Instr.crc ∈ crcFamily ∧ chunkAtEnd.config.wf = true ∧ ChunkFits chunkAtEnd := by
  unfold ChunkFits NoDevice; decide +kernel

/-- StoreBigEndian: the last four bytes of memory, the four bytes before a device and those after it; one address more. -/
theorem meets_StoreBigEndian :
    ((withDevice 0x3C#32 0#32).addr.toNat + 4 ≤ 0x40 ∧ NoDevice (withDevice 0x3C#32 0#32).config 0x3C 4) ∧
    ((withDevice 0x1C#32 0#32).addr.toNat + 4 ≤ 0x40 ∧ NoDevice (withDevice 0x1C#32 0#32).config 0x1C 4) ∧
    ((withDevice 0x24#32 0#32).addr.toNat + 4 ≤ 0x40 ∧ NoDevice (withDevice 0x24#32 0#32).config 0x24 4) ∧
    0x40 < (withDevice 0x3D#32 0#32).addr.toNat + 4 := by
  unfold NoDevice; decide

/-- StoreLittleEndian: the first four bytes of memory; an address that would wrap. -/
theorem meets_StoreLittleEndian :
    ((withDevice 0#32 0#32).addr.toNat + 4 ≤ 0x40 ∧ NoDevice (withDevice 0#32 0#32).config 0 4) ∧
    0x40 < (withDevice 0xFFFFFFFE#32 0#32).addr.toNat + 4 := by
  unfold NoDevice; decide

/-- StoredResultReadsBack. -/
theorem meets_StoredResultReadsBack :
    (withDevice 0x3C#32 0#32).addr.toNat + 4 ≤ 0x40 ∧ NoDevice (withDevice 0x3C#32 0#32).config 0x3C 4 := by
  unfold NoDevice; decide

/-- NoCommandWritesOperands and OnlyStoresWriteMemory: each kind of command goes on from this state. -/
theorem meets_NoCommandWritesOperands :
    (∃ t, exec .crcBit chunkAtEnd = .next t) ∧ (∃ t, exec .chunkChk chunkAtEnd = .next t) ∧
    (∃ t, exec .storeBe chunkAtEnd = .next t) ∧ (∃ t, exec .storeLe chunkAtEnd = .next t) :=
  ⟨⟨_, rfl⟩, ⟨_, rfl⟩, ⟨_, rfl⟩, ⟨_, rfl⟩⟩

/-- OnlyStoresWriteMemory: a command that is no store, and addresses just outside the four bytes. -/
theorem meets_OnlyStoresWriteMemory :
    (∃ t, exec .crc chunkAtEnd = .next t) ∧ Instr.crc ≠ .storeBe ∧ Instr.crc ≠ .storeLe ∧
    (∃ t, exec .storeLe chunkAtEnd = .next t) ∧ 0x33 < chunkAtEnd.addr.toNat ∧ chunkAtEnd.addr.toNat + 4 ≤ 0x38 :=
  ⟨⟨_, rfl⟩, by decide, by decide, ⟨_, rfl⟩, by decide, by decide⟩

/-- ResultRegistersHaveOneWriter: a store. -/
theorem meets_ResultRegistersHaveOneWriter :
    (∃ t, exec .storeBe chunkAtEnd = .next t) ∧ Instr.storeBe ≠ .chunkChk ∧ Instr.storeBe ∉ .chunkChk :: crcFamily :=
  ⟨⟨_, rfl⟩, by decide, by decide⟩

/-- FailedCommandsChangeOnlyStatus and FlagsFollowTheOutcomeTable: a word for each error code. -/
theorem meets_FailedCommandsChangeOnlyStatus :
    (nextOf (issueCommand 0x00000000#32 chunkAtEnd)).map (fun t => errCodeOf t.status) = some 1#4 ∧
    (nextOf (issueCommand 0x00000020#32 { chunkAtEnd with addr := 0x3D#32 })).map (fun t => errCodeOf t.status) = some 2#4 ∧
    (nextOf (issueCommand 0x00000010#32 { chunkAtEnd with mem := [] })).map (fun t => errCodeOf t.status) = some 3#4 ∧
    (nextOf (issueCommand 0x00000010#32 chunkAtEnd)).map (fun t => errCodeOf t.status) = some 0#4 := by decide

/-- FlagsFollowTheOutcomeTable: a success of each kind, beside the errors of the theorem above. -/
theorem meets_FlagsFollowTheOutcomeTable :
    (nextOf (issueCommand 0x00000005#32 chunkAtEnd)).map (fun t => errCodeOf t.status) = some 0#4 ∧ Instr.crc ∈ crcFamily ∧
    (nextOf (issueCommand 0x00000120#32 chunkAtEnd)).map (fun t => errCodeOf t.status) = some 0#4 := by decide

/-- CommandsDoNotReadStatus: a chunk check that goes on. -/
theorem meets_CommandsDoNotReadStatus : ∃ t, exec .chunkChk chunkAtEnd = .next t := ⟨_, rfl⟩

/-- UnreadRegistersDoNotMatter: a store, a CRC command that succeeds, and a chunk check past its range checks. -/
theorem meets_UnreadRegistersDoNotMatter :
    (Instr.storeBe ∉ crcFamily ∧ ∃ t, exec .storeBe chunkAtEnd = .next t) ∧
    (Instr.crc ∈ crcFamily ∧ ∃ t, exec .crc chunkAtEnd = .next t ∧ errCodeOf t.status = 0#4) ∧
    (∃ t, exec .chunkChk chunkAtEnd = .next t ∧ errCodeOf t.status ≠ 2#4) :=
  ⟨⟨by decide, _, rfl⟩, ⟨by decide, _, rfl, by decide⟩, _, rfl, by decide⟩

/-- DeviceRangesAreRefused: ranges that reach the device's first byte and its last; a chunk header and a chunk payload that do. -/
theorem meets_DeviceRangesAreRefused :
    (Instr.crcByte ∈ crcFamily ∧ 0x1C + 5 ≤ (withDevice 0x1C#32 5#32).config.memSize ∧
      ¬ NoDevice (withDevice 0x1C#32 5#32).config 0x1C 5) ∧
    (0x23 + 4 ≤ (withDevice 0x23#32 0#32).config.memSize ∧ ¬ NoDevice (withDevice 0x23#32 0#32).config 0x23 4) ∧
    (0x19 + 8 ≤ (withDevice 0x19#32 0#32).config.memSize ∧ ¬ NoDevice (withDevice 0x19#32 0#32).config 0x19 8) ∧
    (0x15 + 12 + chunkL (withDevice 0x15#32 0#32) ≤ (withDevice 0x15#32 0#32).config.memSize ∧
      ¬ NoDevice (withDevice 0x15#32 0#32).config 0x15 (12 + chunkL (withDevice 0x15#32 0#32))) := by
  unfold NoDevice; decide

/-- RegisterReadsFollowTheMap: the ends of its range, with the replies they give. -/
theorem meets_RegisterReadsFollowTheMap :
    0 < 64 ∧ 63 < 64 ∧
    ∀ k ∈ [0, 10, 63],
      (nextOf (step { chunkAtEnd with pending := [.regRead (chunkAtEnd.config.regBase + 4 * k) .word] })).map
        (fun t => t.replies) = some [Reply.word 0#32] := by decide

/-- RegisterWritesFollowTheMap: the ends of its range, with the states they give. -/
theorem meets_RegisterWritesFollowTheMap :
    (0 < 1 ∧ 1 < 64) ∧ (0 < 63 ∧ 63 < 64) ∧
    ∀ k ∈ [1, 5, 63],
      nextOf (step { chunkAtEnd with pending := [.regWrite (chunkAtEnd.config.regBase + 4 * k) .word 0xFFFFFFFF#32] }) =
        some chunkAtEnd := by decide

/-- SubWordOrMisalignedIsRefused: another width at offset 0, and a word at the last offset of the window. -/
theorem meets_SubWordOrMisalignedIsRefused :
    (0 < 256 ∧ AccessWidth.byte ≠ .word) ∧ (255 < 256 ∧ 255 % 4 ≠ 0) := by decide

/-- StickyBitLaw: an error from a clear bit, and a success from a set one. -/
theorem meets_StickyBitLaw :
    (nextOf (issueCommand 0x00000000#32 chunkAtEnd)).map (fun t => errCodeOf t.status) = some 1#4 ∧
    errStickyOf 0x00000101#32 = true ∧
    (nextOf (issueCommand 0x00000005#32 { chunkAtEnd with status := 0x00000101#32 })).isSome = true := by decide

/-- HostAccessesLeaveErrCode and OnlyResetClearsValidBits: a write to `STATUS` with every bit set. -/
theorem meets_HostAccessesLeaveErrCode :
    (HostEvent.regWrite 0x104 .word 0xFFFFFFFF#32).isReset = false ∧
    (∀ w : Word, HostEvent.regWrite 0x104 .word 0xFFFFFFFF#32 ≠ .regWrite chunkAtEnd.config.regBase .word w) ∧
    ∃ t, step { chunkAtEnd with
      status := 0x00030103#32, pending := [.regWrite 0x104 .word 0xFFFFFFFF#32] } = .next t ∧ errCodeOf t.status = 3#4 :=
  ⟨rfl, by simp [chunkAtEnd, loaded], _, rfl, by decide⟩

/-- OnlyResetClearsValidBits: a command that fails, from a state with both bits set. -/
theorem meets_OnlyResetClearsValidBits :
    resValidOf 0x00030000#32 = true ∧ chunkValidOf 0x00030000#32 = true ∧
    ∃ t, step (withCommand 0#32 [] { chunkAtEnd with status := 0x00030000#32 }) = .next t ∧
      ∀ e rest, (withCommand 0#32 [] chunkAtEnd).pending = e :: rest → e.isReset = false :=
  ⟨by decide, by decide, _, rfl, fun _ _ h => by cases h; rfl⟩

/-- CommandSeesEarlierHostWrite: a buffer of two bytes at the end of memory. -/
theorem meets_CommandSeesEarlierHostWrite :
    let s : State := { withDevice 0x3E#32 2#32 with
      pending := [.dataWrite 0x3E [0x61#8, 0x62#8], .regWrite 0x100 .word (encode .crcNib)] }
    Instr.crcNib ∈ crcFamily ∧ s.len.toNat = [0x61#8, 0x62#8].length ∧ s.addr.toNat + [0x61#8, 0x62#8].length ≤ s.config.memSize ∧
      NoDevice s.config s.addr.toNat [0x61#8, 0x62#8].length ∧
      s.pending = .dataWrite s.addr.toNat [0x61#8, 0x62#8] :: .regWrite s.config.regBase .word (encode .crcNib) :: [] := by
  unfold NoDevice; decide

/-- HostDataAccessStaysInMemory: a read that ends at `MEM_SIZE`, and accesses one byte past it. -/
theorem meets_HostDataAccessStaysInMemory :
    (0x3C + 4 ≤ chunkAtEnd.config.memSize ∧ NoDevice chunkAtEnd.config 0x3C 4) ∧ chunkAtEnd.config.memSize < 0x3C + 5 ∧
    chunkAtEnd.config.memSize < 0x40 + [0x00#8].length := by
  unfold NoDevice; decide

/-- RaceDrawsAreRuns: a draw over the first and the last byte of memory and those beside a device. -/
theorem meets_RaceDrawsAreRuns :
    ∀ c ∈ [(0x00, 0x11#8), (0x1F, 0x22#8), (0x24, 0x33#8), (0x3F, 0x44#8)],
      c.1 < (withDevice 0#32 0#32).config.memSize ∧ NoDevice (withDevice 0#32 0#32).config c.1 1 := by
  unfold NoDevice; decide

/-- ReadersDoNotDisturb: a reader's access between two of the other agent's. -/
theorem meets_ReadersDoNotDisturb :
    Interleaving [HostEvent.regWrite 0x108 .word 7#32, .regWrite 0x100 .word 5#32] [.regRead 0x114 .word]
      [.regWrite 0x108 .word 7#32, .regRead 0x114 .word, .regWrite 0x100 .word 5#32] ∧
    (∀ e ∈ [HostEvent.regRead 0x114 .word], isRead e = true) ∧
    ∃ t, Host.Core.run Sys2Proof.core 3 { chunkAtEnd with
      pending := [.regWrite 0x108 .word 7#32, .regRead 0x114 .word, .regWrite 0x100 .word 5#32] } = .next t :=
  ⟨.left (.right (.left .done)), by decide, _, rfl⟩

/-- ResetDuringCommand: a store that just fits, one that does not, and a command that is no store. -/
theorem meets_ResetDuringCommand :
    chunkAtEnd.config.devices = [] ∧
    ({ chunkAtEnd with addr := 0x3C#32 } : State).addr.toNat + 4 ≤ chunkAtEnd.config.memSize ∧
    chunkAtEnd.config.memSize < ({ chunkAtEnd with addr := 0x3D#32 } : State).addr.toNat + 4 ∧
    decode 0x00000010#32 ≠ some .storeBe ∧ decode 0x00000010#32 ≠ some .storeLe := by decide

/-- ResetClearsRegistersOnly: power-up contents at different addresses below `MEM_SIZE`. -/
theorem meets_ResetClearsRegistersOnly :
    ([(0x3F, 0xAA#8), (0x00, 0x55#8)].map (fun c : Host.Cell => c.1)).Nodup ∧
    ∀ c ∈ [(0x3F, 0xAA#8), (0x00, 0x55#8)], c.1 < chunkAtEnd.config.memSize := by decide

/-- CommandsStraightAfterReset: the smallest memory a store fits in. -/
theorem meets_CommandsStraightAfterReset :
    Instr.crcBit ∈ crcFamily ∧ 4 ≤ (loaded 4 0 iend).config.memSize ∧ NoDevice (loaded 4 0 iend).config 0 4 := by
  unfold NoDevice; decide

/-- EveryStepKeepsInvariant and ParametersNeverChange: a state with a chunk checked and a command outstanding, and the step it takes. -/
theorem meets_EveryStepKeepsInvariant :
    let s : State := { chunkAtEnd with
      status := 0x00030000#32, result := 0xAE426082#32, pending := [.regWrite 0x100 .word 0x20#32] }
    s.Inv ∧ ∃ t, step s = .next t :=
  ⟨⟨by decide, by decide, by decide, by decide, by decide, by decide, by decide⟩, _, rfl⟩

/-- ParametersNeverChange: a power-up step. -/
theorem meets_ParametersNeverChange :
    ∃ t, step { chunkAtEnd with pending := [.powerUp [(0x10, 0xAA#8)]] } = .next t := ⟨_, rfl⟩

end Sys2Proof.Tests
end

section
/-! PROOFS. The register window as the host reaches it (10_state.md R36, R52): each access at an offset below 256 is decided by its
width and alignment alone. -/

namespace Sys2Proof.Machine

/-- Every offset below 256 from `REG_BASE` lies in the window (10_state.md R36). -/
theorem inWindow_regBase_add (c : Config) {offset : Nat} (h : offset < 256) :
    inWindow c (c.regBase + offset) = true := by
  simp [inWindow, h]

theorem wordAccess_eq_false_iff (offset : Nat) (width : AccessWidth) :
    wordAccess offset width = false ↔ width ≠ .word ∨ offset % 4 ≠ 0 := by
  simp [wordAccess, or_iff_not_imp_left]

/-- A naturally aligned 32-bit access to the window reaches its body with the offset. -/
theorem overWindow_of_aligned (s : State) {offset : Nat} (k : Nat → Host.Outcome State Fault Refusal)
    (hoff : offset < 256) (halign : offset % 4 = 0) :
    overWindow (s.config.regBase + offset) .word s k = k offset := by
  simp [overWindow, inWindow_regBase_add _ hoff, wordAccess, halign]

/-- An access to the window of another width or alignment is refused, whatever its body (10_state.md R52). -/
theorem overWindow_refused (s : State) {offset : Nat} {width : AccessWidth}
    (k : Nat → Host.Outcome State Fault Refusal) (hoff : offset < 256)
    (hbad : width ≠ .word ∨ offset % 4 ≠ 0) :
    overWindow (s.config.regBase + offset) width s k = .refused .subWordOrMisaligned := by
  have hacc : wordAccess offset width = false := (wordAccess_eq_false_iff _ _).mpr hbad
  simp [overWindow, inWindow_regBase_add _ hoff, hacc]

/-- The step over a state given by its first outstanding event. -/
theorem step_event (s : State) (e : HostEvent) (rest : List HostEvent) :
    step { s with pending := e :: rest } = handle e { s with pending := rest } :=
  step_pending _ e rest rfl

/-- Settles O41: the read and the write are both behind the window's check, which refuses before the body is reached. -/
theorem subWordOrMisalignedIsRefused : Obligations.SubWordOrMisalignedIsRefused := by
  intro s offset width v rest hoff hbad
  let u : State := { s with pending := rest }
  constructor
  · calc step { s with pending := .regRead (s.config.regBase + offset) width :: rest }
        _ = hostRegRead (u.config.regBase + offset) width u := step_event s _ rest
        _ = .refused .subWordOrMisaligned := overWindow_refused u _ hoff hbad
  · calc step { s with pending := .regWrite (s.config.regBase + offset) width v :: rest }
        _ = hostRegWrite (u.config.regBase + offset) width v u := step_event s _ rest
        _ = .refused .subWordOrMisaligned := overWindow_refused u _ hoff hbad

end Sys2Proof.Machine
end

section
/-! PROOFS. `STATUS.ERR_STICKY` under commands and under host writes to `STATUS` (10_state.md R48). -/

namespace Sys2Proof.Machine

/-! ### Commands -/

/-- What R48 asks of a command that takes `s` to `t`: an error sets `ERR_STICKY`, and nothing clears it. -/
structure StickyKept (s t : State) : Prop where
  set_on_error : errCodeOf t.status ≠ 0#4 → errStickyOf t.status = true
  never_cleared : errStickyOf s.status = true → errStickyOf t.status = true

/-- An error ends with `ERR_STICKY` set, whatever the command wrote before it. -/
theorem stickyKept_raise (e : ErrCode) (s u : State) : StickyKept s (raise e u) where
  set_on_error _ := by simp
  never_cleared _ := by simp

/-- A success ends with `ERRCODE` 0, and keeps `ERR_STICKY` where the command's own writes do. -/
theorem stickyKept_succeed {s u : State} (h : errStickyOf u.status = errStickyOf s.status) :
    StickyKept s (succeed u) where
  set_on_error hne := absurd (by simp [ErrCode.code]) hne
  never_cleared hs := by simpa [h] using hs

theorem exec_stickyKept {i : Instr} {s t : State} (h : exec i s = .next t) : StickyKept s t := by
  rcases exec_next i s t h with rfl | ⟨alg, rfl⟩ | ⟨_, rfl | rfl⟩ | ⟨_, _, _, _, rfl⟩
  · exact stickyKept_raise _ _ _
  · exact stickyKept_succeed (by simp)
  · exact stickyKept_succeed (by simp [chunkWritten])
  · exact stickyKept_raise _ _ _
  · exact stickyKept_succeed rfl

theorem issueCommand_stickyKept {w : Word} {s t : State} (h : issueCommand w s = .next t) : StickyKept s t := by
  rcases issueCommand_next w s t h with ⟨_, rfl⟩ | ⟨i, _, hexec⟩
  · exact stickyKept_raise _ _ _
  · exact exec_stickyKept hexec

/-! ### Host writes to `STATUS` -/

theorem getLsbD_clearErrSticky_of_ne (st : Word) {b : Nat} (hb : b ≠ 8) :
    (clearErrSticky st).getLsbD b = st.getLsbD b := by
  have hmask : clearErrSticky st = st &&& ~~~ BitVec.twoPow 32 8 := rfl
  rw [hmask, BitVec.getLsbD_and, BitVec.getLsbD_not, BitVec.getLsbD_twoPow]
  by_cases hlt : b < 32
  · simp [hlt, hb.symm]
  · simp [BitVec.getLsbD_of_ge st b (not_lt.mp hlt)]

/-- A host write to `STATUS` leaves `ERR_STICKY` set exactly where it was set and bit 8 of the value is 0. -/
@[simp] theorem errStickyOf_statusAfterHostWrite (v st : Word) :
    errStickyOf (statusAfterHostWrite v st) = (errStickyOf st && !v.getLsbD 8) := by
  unfold statusAfterHostWrite
  split
  next hset => rw [hset, errStickyOf_clearErrSticky, Bool.not_true, Bool.and_false]
  next hclear => rw [eq_false_of_ne_true hclear, Bool.not_false, Bool.and_true]

/-- A host write to `STATUS` leaves every bit but bit 8. -/
theorem getLsbD_statusAfterHostWrite_of_ne (v st : Word) {b : Nat} (hb : b ≠ 8) :
    (statusAfterHostWrite v st).getLsbD b = st.getLsbD b := by
  unfold statusAfterHostWrite
  split
  · exact getLsbD_clearErrSticky_of_ne st hb
  · rfl

/-- The step that takes a host write to `STATUS` (offset 4 of the window). -/
theorem step_statusWrite (s : State) (v : Word) (rest : List HostEvent) :
    step { s with pending := .regWrite (s.config.regBase + 4) .word v :: rest } =
      .next { s with pending := rest, status := statusAfterHostWrite v s.status } := by
  let u : State := { s with pending := rest }
  calc step { s with pending := .regWrite (s.config.regBase + 4) .word v :: rest }
      _ = hostRegWrite (u.config.regBase + 4) .word v u := step_event s _ rest
      _ = writeOffset 4 v u := overWindow_of_aligned u _ (by decide) (by decide)
      _ = .next (writeReg .status v u) := rfl

/-- Settles O42: commands by the cases of `exec_next`, a host write by its step equation. -/
theorem stickyBitLaw : Obligations.StickyBitLaw := by
  constructor
  · intro s t w h
    obtain ⟨set_on_error, never_cleared⟩ := issueCommand_stickyKept h
    exact ⟨set_on_error, never_cleared⟩
  · intro s v rest
    exact ⟨_, step_statusWrite s v rest, rfl, errStickyOf_statusAfterHostWrite v s.status,
      fun b hb => getLsbD_statusAfterHostWrite_of_ne v s.status hb⟩

end Sys2Proof.Machine
end

section
/-! PROOFS. The opcode map (30_encoding.md R105): which words `decode` knows, the fields of a command's word, and the step at a write
to `CMD` of a word that is not in the map (R103, R107). -/

namespace Sys2Proof

open Sys2Proof.Statements

/-! ### The word of a command -/

theorem roundTrip (i : Instr) : Laws.RoundTrip.Statement i := by
  cases i with
  | crcBit => exact Laws.RoundTrip.crcBit
  | crcNib => exact Laws.RoundTrip.crcNib
  | crcByte => exact Laws.RoundTrip.crcByte
  | crcS4 => exact Laws.RoundTrip.crcS4
  | crc => exact Laws.RoundTrip.crc
  | chunkChk => exact Laws.RoundTrip.chunkChk
  | storeBe => exact Laws.RoundTrip.storeBe
  | storeLe => exact Laws.RoundTrip.storeLe

@[simp] theorem decode_encode (i : Instr) : decode (encode i) = some i := by
  obtain ⟨_, _, hdecode⟩ := roundTrip i
  exact hdecode

@[simp] theorem wordWf_encode (i : Instr) : wordWf (encode i) = true := by
  obtain ⟨_, hwf, _⟩ := roundTrip i
  exact hwf

@[simp] theorem opField_encode (i : Instr) : opField (encode i) = opOf i :=
  BitVec.extractLsb'_append_eq_right

@[simp] theorem ordField_encode (i : Instr) : ordField (encode i) = ordOf i := by
  calc (encode i).extractLsb' 8 1
      _ = (0#23 ++ ordOf i).extractLsb' 0 1 := BitVec.extractLsb'_append_eq_of_le (by decide)
      _ = ordOf i := BitVec.extractLsb'_append_eq_right

/-! ### The rows of the map -/

/-- The commands in the order of the map (30_encoding.md R105). -/
def commands : List Instr := [.crcBit, .crcNib, .crcByte, .crcS4, .crc, .chunkChk, .storeBe, .storeLe]

theorem tableWords_eq_encodings : tableWords = commands.map encode := rfl

theorem tableWords_eq_patterns : tableWords = opcodeTable.map OpcodeRow.pattern := rfl

/-- The row of a command in the map: its word, its OP, its ORD and the command. -/
def mapRow (i : Instr) : Word × BitVec 8 × BitVec 1 × Instr := (encode i, opOf i, ordOf i, i)

/-- Settles O1: the rows of the map are those of `mapRow`, command by command. -/
theorem opcodeMapWords : Obligations.OpcodeMapWords := by
  change ∀ r ∈ commands.map mapRow, _
  rw [List.forall_mem_map]
  intro i _
  exact ⟨decode_encode i, rfl, opField_encode i, ordField_encode i⟩

/-! ### Illegal words -/

/-- The masks of the map are full, so a row covers its own pattern alone (30_encoding.md R104). -/
theorem covers_iff {r : OpcodeRow} (hr : r ∈ opcodeTable) (w : Word) : r.covers w = true ↔ w = r.pattern := by
  have full_masks : ∀ r ∈ opcodeTable, r.mask = BitVec.allOnes 32 := by decide
  rw [OpcodeRow.covers, full_masks r hr, BitVec.and_allOnes, beq_iff_eq]

theorem decode_eq_none_iff_notMem (w : Word) : decode w = none ↔ w ∉ tableWords := by
  calc decode w = none
      _ ↔ ∀ r ∈ opcodeTable, ¬ r.covers w = true := by rw [decode, Option.map_eq_none_iff, List.find?_eq_none]
      _ ↔ ∀ r ∈ opcodeTable, ¬ w = r.pattern := forall₂_congr fun _ hr => not_congr (covers_iff hr w)
      _ ↔ w ∉ tableWords := by simp [tableWords_eq_patterns, eq_comm]

/-- The model's field checks let none of the illegal field cases of 30_encoding.md R107 pass. -/
theorem not_fieldsIllegal_of_wordWf {w : Word} (hw : wordWf w = true) : ¬ FieldsIllegal w := by
  simp only [wordWf, Bool.and_eq_true] at hw
  obtain ⟨⟨hrsv, hord⟩, hop⟩ := hw
  rintro (hbad | ⟨hset, hbad⟩ | hbad)
  · exact hbad (eq_of_beq hrsv)
  · simp [wordOrdOk, ordField, opField, hset, hbad] at hord
  · exact hbad (List.contains_iff_mem.mp hop)

theorem decode_eq_none_of_fieldsIllegal {w : Word} (hw : FieldsIllegal w) : decode w = none := by
  rw [decode_eq_none_iff_notMem, tableWords_eq_encodings]
  intro hmem
  obtain ⟨i, _, rfl⟩ := List.mem_map.mp hmem
  exact not_fieldsIllegal_of_wordWf (wordWf_encode i) hw

end Sys2Proof

namespace Sys2Proof.Machine

open Sys2Proof.Statements

/-! ### The write to `CMD` -/

theorem raise_eq_raised (e : ErrCode) (s : State) : raise e s = raised (e.code.setWidth 32) s := by
  simp only [raise, raised, setErrSticky, setErrCode]
  ac_rfl

/-- The step that takes the host's write to `CMD` (offset 0 of the window) issues the command. -/
theorem step_withCommand (w : Word) (rest : List HostEvent) (s : State) :
    step (withCommand w rest s) = issueCommand w { s with pending := rest } := by
  let u : State := { s with pending := rest }
  calc step (withCommand w rest s)
      _ = hostRegWrite (u.config.regBase + 0) .word w u := step_event s _ rest
      _ = writeOffset 0 w u := overWindow_of_aligned u _ (by decide) (by decide)
      _ = issueCommand w u := rfl

theorem issueCommand_of_illegal {w : Word} (h : decode w = none) (s : State) :
    issueCommand w s = .next (raise .illegalCmd s) := by
  rw [issueCommand, h]

/-- Settles O4: either hypothesis makes the word one that `decode` does not know. -/
theorem illegalWordRaisesIllegalCmd : Obligations.IllegalWordRaisesIllegalCmd := by
  intro s w rest hillegal
  have hdecode : decode w = none :=
    hillegal.elim (decode_eq_none_iff_notMem w).mpr decode_eq_none_of_fieldsIllegal
  calc step (withCommand w rest s)
      _ = issueCommand w { s with pending := rest } := step_withCommand w rest s
      _ = .next (raise .illegalCmd { s with pending := rest }) := issueCommand_of_illegal hdecode _
      _ = .next (raised 1#32 { s with pending := rest }) := congrArg _ (raise_eq_raised .illegalCmd _)

end Sys2Proof.Machine
end

section
/-! PROOFS. The bit step of the CRC (40_crc.md R130) is linear over XOR, and so are its powers; powers over known bits are shifts. -/

namespace Sys2Proof.Machine

/-! ### The bit step and its powers -/

/-- The bit step with its choice confined to the constant that is added. -/
theorem stepBit_eq_xor (c : Word) : stepBit c = (c >>> 1) ^^^ (if c.getLsbD 0 then poly else 0#32) := by
  unfold stepBit
  split
  · rfl
  · exact BitVec.xor_zero.symm

theorem stepBit_of_getLsbD_zero {c : Word} (h : c.getLsbD 0 = false) : stepBit c = c >>> 1 := by
  rw [stepBit_eq_xor, h, if_neg Bool.false_ne_true, BitVec.xor_zero]

theorem stepBit_xor (c d : Word) : stepBit (c ^^^ d) = stepBit c ^^^ stepBit d := by
  have hpoly : (if (c ^^^ d).getLsbD 0 then poly else 0#32) =
      (if c.getLsbD 0 then poly else 0#32) ^^^ (if d.getLsbD 0 then poly else 0#32) := by
    rw [BitVec.getLsbD_xor]
    cases c.getLsbD 0 <;> cases d.getLsbD 0 <;> rfl
  rw [stepBit_eq_xor, stepBit_eq_xor c, stepBit_eq_xor d, hpoly, BitVec.ushiftRight_xor_distrib]
  ac_rfl

@[simp] theorem shiftBits_zero (c : Word) : shiftBits c 0 = c := rfl

theorem shiftBits_succ (c : Word) (n : Nat) : shiftBits c (n + 1) = shiftBits (stepBit c) n := rfl

theorem shiftBits_add (c : Word) (m n : Nat) : shiftBits c (m + n) = shiftBits (shiftBits c m) n := by
  induction m generalizing c with
  | zero => rw [Nat.zero_add, shiftBits_zero]
  | succ m ih => rw [Nat.add_right_comm, shiftBits_succ, shiftBits_succ, ih]

theorem shiftBits_xor (c d : Word) (n : Nat) : shiftBits (c ^^^ d) n = shiftBits c n ^^^ shiftBits d n := by
  induction n generalizing c d with
  | zero => rfl
  | succ n ih => rw [shiftBits_succ, stepBit_xor, ih, shiftBits_succ, shiftBits_succ]

/-- Over bits that are 0 the steps add no polynomial. -/
theorem shiftBits_of_low_zero {c : Word} {n : Nat} (h : ∀ i < n, c.getLsbD i = false) :
    shiftBits c n = c >>> n := by
  induction n generalizing c with
  | zero => rfl
  | succ n ih =>
    have hshift : ∀ i < n, (c >>> 1).getLsbD i = false := fun i hi => by
      rw [BitVec.getLsbD_ushiftRight]
      exact h (1 + i) (by omega)
    rw [shiftBits_succ, stepBit_of_getLsbD_zero (h 0 (by omega)), ih hshift, ← BitVec.shiftRight_add,
      Nat.add_comm]

/-- The idea of every table: `n` steps move the high bits down and replace the low `n` bits, which `mask` selects, by a value that
depends on them alone. -/
theorem shiftBits_eq_lookup {mask : Word} {n : Nat} (hlow : ∀ i < n, mask.getLsbD i = true)
    (hhigh : mask >>> n = 0#32) (c : Word) : shiftBits c n = (c >>> n) ^^^ shiftBits (c &&& mask) n := by
  have hclear : ∀ i < n, (c ^^^ (c &&& mask)).getLsbD i = false := fun i hi => by simp [hlow i hi]
  calc shiftBits c n
      _ = shiftBits ((c ^^^ (c &&& mask)) ^^^ (c &&& mask)) n := by
        rw [BitVec.xor_assoc, BitVec.xor_self, BitVec.xor_zero]
      _ = ((c ^^^ (c &&& mask)) >>> n) ^^^ shiftBits (c &&& mask) n := by
        rw [shiftBits_xor, shiftBits_of_low_zero hclear]
      _ = (c >>> n) ^^^ shiftBits (c &&& mask) n := by
        rw [BitVec.ushiftRight_xor_distrib, BitVec.ushiftRight_and_distrib, hhigh, BitVec.and_zero,
          BitVec.xor_zero]

/-! ### Bytes inside a word -/

theorem getLsbD_zext32 (b : Byte) (i : Nat) : (zext32 b).getLsbD i = b.getLsbD i := by
  rw [zext32, BitVec.getLsbD_setWidth]
  by_cases hi : i < 32
  · simp [hi]
  · rw [BitVec.getLsbD_of_ge b i (by omega), Bool.and_false]

theorem getElem_zext32 (b : Byte) {i : Nat} (hi : i < 32) : (zext32 b)[i] = b.getLsbD i := by
  rw [← BitVec.getLsbD_eq_getElem, getLsbD_zext32]

/-- `k` steps bring a byte that stands at bit `k` down to bit 0. -/
theorem shiftBits_zext32_shiftLeft (b : Byte) {k : Nat} (hk : k ≤ 24) :
    shiftBits (zext32 b <<< k) k = zext32 b := by
  have hclear : ∀ i < k, (zext32 b <<< k).getLsbD i = false := fun i hi => by simp [hi]
  rw [shiftBits_of_low_zero hclear]
  apply BitVec.eq_of_getLsbD_eq
  intro i _
  rw [BitVec.getLsbD_ushiftRight, BitVec.getLsbD_shiftLeft, Nat.add_sub_cancel_left, getLsbD_zext32]
  by_cases hi : i < 8
  · simp [show k + i < 32 by omega]
  · simp [BitVec.getLsbD_of_ge b i (by omega)]

theorem shiftBits_zext32_shiftLeft_add (b : Byte) {k : Nat} (hk : k ≤ 24) (n : Nat) :
    shiftBits (zext32 b <<< k) (k + n) = shiftBits (zext32 b) n := by
  rw [shiftBits_add, shiftBits_zext32_shiftLeft b hk]

/-- The four bytes of `le32` stand at disjoint places. -/
theorem le32_eq_xor (b0 b1 b2 b3 : Byte) :
    le32 b0 b1 b2 b3 = zext32 b0 ^^^ zext32 b1 <<< 8 ^^^ zext32 b2 <<< 16 ^^^ zext32 b3 <<< 24 := by
  apply BitVec.eq_of_getLsbD_eq
  intro i hi
  interval_cases i <;> simp [le32, getElem_zext32]

/-- A word is `le32` of its bytes (00_scope.md R20). -/
theorem le32_extractLsb' (x : Word) :
    le32 (x.extractLsb' 0 8) (x.extractLsb' 8 8) (x.extractLsb' 16 8) (x.extractLsb' 24 8) = x := by
  apply BitVec.eq_of_getLsbD_eq
  intro i hi
  interval_cases i <;> simp [le32, getElem_zext32]

/-! ### The loop body of `Crc32` -/

/-- A byte added after `k` steps could as well have been added before them, `k` bits higher. -/
theorem crcByteStep_shiftBits (c : Word) (b : Byte) {k : Nat} (hk : k ≤ 24) :
    crcByteStep (shiftBits c k) b = shiftBits (c ^^^ zext32 b <<< k) (k + 8) := by
  rw [shiftBits_add, shiftBits_xor, shiftBits_zext32_shiftLeft b hk, crcByteStep]

/-- Four bytes one by one are the four added as one little-endian word, and 32 steps. -/
theorem foldl_crcByteStep_four (c : Word) (b0 b1 b2 b3 : Byte) :
    [b0, b1, b2, b3].foldl crcByteStep c = shiftBits (c ^^^ le32 b0 b1 b2 b3) 32 := by
  calc [b0, b1, b2, b3].foldl crcByteStep c
      _ = crcByteStep (crcByteStep (crcByteStep (shiftBits (c ^^^ zext32 b0) 8) b1) b2) b3 := rfl
      _ = shiftBits (c ^^^ zext32 b0 ^^^ zext32 b1 <<< 8 ^^^ zext32 b2 <<< 16 ^^^ zext32 b3 <<< 24) 32 := by
        rw [crcByteStep_shiftBits _ b1 (by decide), crcByteStep_shiftBits _ b2 (by decide),
          crcByteStep_shiftBits _ b3 (by decide)]
      _ = shiftBits (c ^^^ le32 b0 b1 b2 b3) 32 := by simp only [le32_eq_xor, BitVec.xor_assoc]

end Sys2Proof.Machine
end

section
/-! PROOFS. The lookup tables hold powers of the bit step (40_crc.md R142 to R144), and so one lookup does the work of those steps. -/

namespace Sys2Proof.Machine

/-- Settles O14: the sixteen literals of the table, each against four steps. -/
theorem nibbleTableIsShiftByFour : Obligations.NibbleTableIsShiftByFour :=
  ⟨rfl, rfl, by decide⟩

/-- The literals of the byte table, row by row, each against eight steps. -/
theorem t8_row_column : ∀ row < 32, ∀ column < 8,
    t8 (8 * row + column) = shiftBits (BitVec.ofNat 32 (8 * row + column)) 8 := by decide

/-- Settles O15: every index is a row and a column. -/
theorem byteTableIsShiftByEight : Obligations.ByteTableIsShiftByEight := by
  refine ⟨List.length_flatten.trans rfl, fun i hi => ?_⟩
  have hrow : i / 8 < 32 := Nat.div_lt_of_lt_mul (List.mem_range.mp hi)
  have hentry := t8_row_column (i / 8) hrow (i % 8) (Nat.mod_lt i (by decide))
  rwa [Nat.div_add_mod] at hentry

/-! ### One lookup -/

theorem t4_toNat {c : Word} (h : c.toNat < 16) : t4 c.toNat = shiftBits c 4 := by
  obtain ⟨_, _, hentry⟩ := nibbleTableIsShiftByFour
  rw [hentry _ (List.mem_range.mpr h), BitVec.ofNat_toNat, BitVec.setWidth_eq]

theorem t8_toNat {c : Word} (h : c.toNat < 256) : t8 c.toNat = shiftBits c 8 := by
  obtain ⟨_, hentry⟩ := byteTableIsShiftByEight
  rw [hentry _ (List.mem_range.mpr h), BitVec.ofNat_toNat, BitVec.setWidth_eq]

/-- One nibble lookup is four steps. -/
theorem nibbleHalf_eq_shiftBits (c : Word) : nibbleHalf c = shiftBits c 4 := by
  have hindex : (c &&& 0xF#32).toNat < 16 := by
    rw [BitVec.toNat_and]
    exact Nat.and_lt_two_pow _ (n := 4) (by decide)
  rw [nibbleHalf, t4_toNat hindex, ← shiftBits_eq_lookup (by decide) rfl c]

/-- One byte lookup, as in the update of the slicing tables, is eight steps. -/
theorem nextSlice_eq_shiftBits (c : Word) : nextSlice c = shiftBits c 8 := by
  have hindex : (c &&& 0xFF#32).toNat < 256 := by
    rw [BitVec.toNat_and]
    exact Nat.and_lt_two_pow _ (n := 8) (by decide)
  rw [nextSlice, t8_toNat hindex, ← shiftBits_eq_lookup (by decide) rfl c]

/-! ### The slicing tables -/

theorem t8_byte (b : Byte) : t8 b.toNat = shiftBits (zext32 b) 8 := by
  have hb : (zext32 b).toNat = b.toNat := BitVec.toNat_setWidth_of_le (by decide)
  rw [← hb, t8_toNat (hb ▸ b.isLt)]

theorem s1_byte (b : Byte) : s1 b.toNat = shiftBits (zext32 b) 16 := by
  rw [s1, nextSlice_eq_shiftBits, t8_byte, ← shiftBits_add]

theorem s2_byte (b : Byte) : s2 b.toNat = shiftBits (zext32 b) 24 := by
  rw [s2, nextSlice_eq_shiftBits, s1_byte, ← shiftBits_add]

theorem s3_byte (b : Byte) : s3 b.toNat = shiftBits (zext32 b) 32 := by
  rw [s3, nextSlice_eq_shiftBits, s2_byte, ← shiftBits_add]

/-- Settles O16: the update that derives each table from the one before is how the model defines it, and is eight steps. -/
theorem slicingTablesAreShifts : Obligations.SlicingTablesAreShifts :=
  ⟨fun b => ⟨s1_byte b, s2_byte b, s3_byte b, rfl, rfl, rfl⟩, rfl, rfl, rfl, rfl⟩

end Sys2Proof.Machine
end

section
/-! PROOFS. The function `Crc32` (40_crc.md R131) and the four algorithms that compute it (R145, R146). -/

namespace Sys2Proof.Machine

/-! ### `Crc32` -/

/-- Settles O10: the initial and the final complement cancel. -/
theorem emptyInputReturnsSeed : Obligations.EmptyInputReturnsSeed := fun _ => BitVec.not_not

/-- The complement that ends one piece cancels the one that starts the next (40_crc.md R140). -/
theorem crc32_append (d e : List Byte) (seed : Word) : crc32 (d ++ e) seed = crc32 e (crc32 d seed) := by
  simp only [crc32, List.foldl_append, BitVec.not_not]

theorem foldl_crc32_eq_flatten (pieces : List (List Byte)) (seed : Word) :
    pieces.foldl (fun seed d => crc32 d seed) seed = crc32 pieces.flatten seed := by
  induction pieces generalizing seed with
  | nil => exact (emptyInputReturnsSeed seed).symm
  | cons d pieces ih => rw [List.foldl_cons, ih, List.flatten_cons, crc32_append]

/-- Settles O11: the second part by induction on the pieces, for every seed at once. -/
theorem crcOfPiecesChains : Obligations.CrcOfPiecesChains :=
  ⟨crc32_append, fun pieces => foldl_crc32_eq_flatten pieces 0#32⟩

/-- A zero byte leaves the accumulator 0 (40_crc.md R141). -/
theorem foldl_crcByteStep_zeros (n : Nat) : (List.replicate n 0x00#8).foldl crcByteStep 0#32 = 0#32 := by
  have hstep : crcByteStep 0#32 0x00#8 = 0#32 := rfl
  induction n with
  | zero => rfl
  | succ n ih => rw [List.replicate_succ, List.foldl_cons, hstep, ih]

/-- Settles O12: the complement of the seed is the accumulator 0, which zero bytes keep; four 0xFF bytes added as one word to the
complement of seed 0 give the accumulator 0 as well. -/
theorem crcCornerCases : Obligations.CrcCornerCases := by
  constructor
  · intro n
    calc crc32 (List.replicate n 0x00#8) 0xFFFFFFFF#32
        _ = ~~~ ((List.replicate n 0x00#8).foldl crcByteStep 0#32) := rfl
        _ = 0xFFFFFFFF#32 := by rw [foldl_crcByteStep_zeros]; rfl
  · have hcancel : ~~~ 0#32 ^^^ le32 0xFF#8 0xFF#8 0xFF#8 0xFF#8 = 0#32 := by decide
    calc crc32 [0xFF#8, 0xFF#8, 0xFF#8, 0xFF#8] 0#32
        _ = ~~~ (shiftBits (~~~ 0#32 ^^^ le32 0xFF#8 0xFF#8 0xFF#8 0xFF#8) 32) := by
          rw [crc32, foldl_crcByteStep_four]
        _ = ~~~ (shiftBits 0#32 32) := by rw [hcancel]
        _ = 0xFFFFFFFF#32 := by rw [shiftBits_of_low_zero fun _ _ => BitVec.getLsbD_zero]; rfl

/-! ### The four algorithms -/

theorem nibbleBody_eq_crcByteStep (c : Word) (b : Byte) : nibbleBody c b = crcByteStep c b := by
  rw [nibbleBody, nibbleHalf_eq_shiftBits, nibbleHalf_eq_shiftBits, ← shiftBits_add, crcByteStep]

/-- The byte body shifts `c` before it adds the byte, which lies in the bits that are shifted out. -/
theorem byteBody_eq_crcByteStep (c : Word) (b : Byte) : byteBody c b = crcByteStep c b := by
  have hshift : (c ^^^ zext32 b) >>> 8 = c >>> 8 := by
    have hb : zext32 b >>> 8 = 0#32 := by
      apply BitVec.eq_of_getLsbD_eq
      intro i _
      rw [BitVec.getLsbD_ushiftRight, getLsbD_zext32, BitVec.getLsbD_of_ge b _ (by omega), BitVec.getLsbD_zero]
    rw [BitVec.ushiftRight_xor_distrib, hb, BitVec.xor_zero]
  calc byteBody c b
      _ = nextSlice (c ^^^ zext32 b) := by rw [byteBody, nextSlice, hshift]
      _ = crcByteStep c b := nextSlice_eq_shiftBits _

/-- The four lookups for the bytes of a word are 32 steps of the word: the table for each byte does the steps the byte's place needs. -/
theorem sliceBody_eq_foldl (c : Word) (b0 b1 b2 b3 : Byte) :
    sliceBody c b0 b1 b2 b3 = [b0, b1, b2, b3].foldl crcByteStep c := by
  have hlookups : ∀ x0 x1 x2 x3 : Byte, s3 x0.toNat ^^^ s2 x1.toNat ^^^ s1 x2.toNat ^^^ t8 x3.toNat =
      shiftBits (le32 x0 x1 x2 x3) 32 := fun x0 x1 x2 x3 => by
    rw [le32_eq_xor, shiftBits_xor, shiftBits_xor, shiftBits_xor, s3_byte, s2_byte, s1_byte, t8_byte,
      ← shiftBits_zext32_shiftLeft_add x1 (k := 8) (by decide),
      ← shiftBits_zext32_shiftLeft_add x2 (k := 16) (by decide),
      ← shiftBits_zext32_shiftLeft_add x3 (k := 24) (by decide)]
  rw [sliceBody, hlookups, le32_extractLsb', foldl_crcByteStep_four]

theorem foldl_byteBody (c : Word) (d : List Byte) : d.foldl byteBody c = d.foldl crcByteStep c := by
  rw [funext₂ byteBody_eq_crcByteStep]

theorem sliceLoop_eq_foldl (c : Word) (d : List Byte) : sliceLoop c d = d.foldl crcByteStep c := by
  induction c, d using sliceLoop.induct with
  | case1 c b0 b1 b2 b3 rest ih => rw [sliceLoop, ih, sliceBody_eq_foldl]; rfl
  | case2 c tail hshort => rw [sliceLoop, foldl_byteBody]; exact hshort

theorem loop_eq_foldl (alg : CrcAlg) (c : Word) (d : List Byte) : alg.loop c d = d.foldl crcByteStep c := by
  cases alg with
  | bitwise => rfl
  | nibble => rw [CrcAlg.loop, funext₂ nibbleBody_eq_crcByteStep]
  | byte => exact foldl_byteBody c d
  | slicing => exact sliceLoop_eq_foldl c d

/-- Settles O9: the four loops are one fold. -/
theorem algorithmsComputeCrc32 : Obligations.AlgorithmsComputeCrc32 := by
  intro alg d seed
  rw [crcBy, loop_eq_foldl, crc32]

end Sys2Proof.Machine
end

section
/-! PROOFS. The commands of the CRC family (40_crc.md R149 to R154). -/

namespace Sys2Proof.Machine

open Sys2Proof.Statements

/-- The status a success leaves after a write of `RESULT` (10_state.md R47, R49). -/
theorem setErrCode_none_setResValid (st : Word) :
    setErrCode .none (setResValid st) = okStatus st 0x00010000#32 := by
  rw [setErrCode, setResValid, BitVec.and_or_distrib_right, okStatus]
  exact BitVec.or_zero

/-- What a CRC command leaves on success is the same for every algorithm. -/
theorem crcDone_eq (alg : CrcAlg) (s : State) :
    crcDone alg s = { s with
      result := crc32 (s.mem.readBytes s.addr.toNat s.len.toNat) s.seed
      status := okStatus s.status 0x00010000#32 } := by
  rw [← algorithmsComputeCrc32 alg, ← setErrCode_none_setResValid]
  rfl

/-- A command that runs `crcCommand`, with any of the algorithms, does what 40_crc.md R149 says. -/
theorem crcCommandRule_of_exec {i : Instr} {alg : CrcAlg} (hexec : ∀ s : State, exec i s = crcCommand alg s) :
    CrcCommandRule (encode i) i := by
  refine ⟨decode_encode i, fun s => ⟨fun hfits hdevice => ?_, fun hover => ?_⟩⟩
  · calc exec i s
        _ = crcCommand alg s := hexec s
        _ = .next (crcDone alg s) := overRange_fits _ _ _ _ hfits hdevice
        _ = _ := congrArg _ (crcDone_eq alg s)
  · calc exec i s
        _ = crcCommand alg s := hexec s
        _ = .next (raise .range s) := overRange_over _ _ _ _ hover
        _ = .next (raised 2#32 s) := congrArg _ (raise_eq_raised .range s)

/-- Settles O18, with the bitwise algorithm (40_crc.md R150). -/
theorem crcBitCommand : Obligations.CrcBitCommand := crcCommandRule_of_exec (i := .crcBit) (alg := .bitwise) fun _ => rfl

/-- Settles O19, with the nibble table (40_crc.md R151). -/
theorem crcNibCommand : Obligations.CrcNibCommand := crcCommandRule_of_exec (i := .crcNib) (alg := .nibble) fun _ => rfl

/-- Settles O20, with the byte table (40_crc.md R152). -/
theorem crcByteCommand : Obligations.CrcByteCommand := crcCommandRule_of_exec (i := .crcByte) (alg := .byte) fun _ => rfl

/-- Settles O21, with the slicing tables (40_crc.md R153). -/
theorem crcS4Command : Obligations.CrcS4Command := crcCommandRule_of_exec (i := .crcS4) (alg := .slicing) fun _ => rfl

/-- Settles O22: `CRC` runs the slicing algorithm, as `CRC.S4` does. -/
theorem crcWrapperCommand : Obligations.CrcWrapperCommand :=
  ⟨crcCommandRule_of_exec (i := .crc) (alg := .slicing) fun _ => rfl, fun _ => rfl⟩

end Sys2Proof.Machine
end

section
/-! PROOFS. The result stores (41_chunk_store.md R180, R181). -/

namespace Sys2Proof.Machine

open Sys2Proof.Statements

/-- The status a success leaves where the command set no other bit (10_state.md R47). -/
theorem setErrCode_none (st : Word) : setErrCode .none st = okStatus st 0#32 := rfl

/-- A command that runs `storeCommand` on four bytes made from `RESULT` does what 41_chunk_store.md R180 says. -/
theorem storeRule_of_exec {i : Instr} {data : Word → List Byte} (hlength : ∀ v, (data v).length = 4)
    (hexec : ∀ s : State, exec i s = storeCommand (data s.result) s) : StoreRule (encode i) i data := by
  refine ⟨decode_encode i, fun s => ⟨fun hfits hdevice => ?_, fun hover => ?_⟩⟩
  · let m : Memory := s.mem.writeBytes s.addr.toNat (data s.result)
    have hread := readBytes_writeBytes s.mem s.addr.toNat (data s.result)
    rw [hlength] at hread
    refine ⟨m, ?_, hread, fun x hx => read_writeBytes_outside _ _ _ _ (by rwa [hlength])⟩
    calc exec i s
        _ = storeCommand (data s.result) s := hexec s
        _ = .next (succeed { s with mem := m }) := overRange_fits _ _ _ _ hfits hdevice
        _ = .next { s with mem := m, status := okStatus s.status 0#32 } := by rw [succeed, setErrCode_none]
  · calc exec i s
        _ = storeCommand (data s.result) s := hexec s
        _ = .next (raise .range s) := overRange_over _ _ _ _ hover
        _ = .next (raised 2#32 s) := congrArg _ (raise_eq_raised .range s)

/-- Settles O28, with the bytes most significant first (41_chunk_store.md R180). -/
theorem storeBigEndian : Obligations.StoreBigEndian :=
  storeRule_of_exec (i := .storeBe) (data := bytesBe) (fun _ => rfl) fun _ => rfl

/-- Settles O29, with the bytes least significant first (41_chunk_store.md R181). -/
theorem storeLittleEndian : Obligations.StoreLittleEndian :=
  storeRule_of_exec (i := .storeLe) (data := bytesLe) (fun _ => rfl) fun _ => rfl

end Sys2Proof.Machine
end

section
/-! PROOFS. The chunk check (41_chunk_store.md R171): its registers in the terms of the statements, and its outcome in each case. -/

namespace Sys2Proof.Machine

open Sys2Proof.Statements

/-! ### What a chunk check writes -/

/-- The CRC of the payload seeded by that of the type tag is the CRC of both (40_crc.md R140, R146). -/
theorem chunkComputedCrc_eq_crc32 (m : Memory) (a n : Nat) :
    chunkComputedCrc m a n = crc32 (m.readBytes (a + 4) (4 + n)) 0#32 := by
  rw [chunkComputedCrc, algorithmsComputeCrc32, algorithmsComputeCrc32, readBytes_add, crc32_append]

/-- The status a chunk check leaves: both valid bits, and the code of its verdict (10_state.md R47, R49, R50). -/
theorem setErrCode_setChunkValid_setResValid (e : ErrCode) (st : Word) :
    setErrCode e (setChunkValid (setResValid st)) = okStatus st (0x00030000#32 ||| e.code.setWidth 32) := by
  have hvalid : setChunkValid (setResValid st) = st ||| 0x00030000#32 := BitVec.or_assoc _ _ _
  have hmask : (0x00030000#32 &&& 0xFFFFFFF0#32 : Word) = 0x00030000#32 := rfl
  rw [setErrCode, hvalid, BitVec.and_or_distrib_right, hmask, BitVec.or_assoc, okStatus]

theorem chunkWritten_eq_chunkRegs (s : State) :
    chunkWritten s = chunkRegs s (setChunkValid (setResValid s.status)) := by
  have hnext : BitVec.ofNat 32 ((s.addr.toNat + 12 + chunkL s) % 2 ^ 32) =
      BitVec.ofNat 32 (s.addr.toNat + 12 + chunkL s) := BitVec.eq_of_toNat_eq (by simp)
  rw [chunkRegs, chunkCrcOf, ← chunkComputedCrc_eq_crc32, hnext]
  rfl

theorem succeed_chunkWritten (s : State) :
    succeed (chunkWritten s) = chunkRegs s (okStatus s.status 0x00030000#32) := by
  have hstatus := setErrCode_setChunkValid_setResValid .none s.status
  rw [chunkWritten_eq_chunkRegs, succeed]
  exact congrArg (chunkRegs s) hstatus

theorem raise_crcMismatch_chunkWritten (s : State) :
    raise .crcMismatch (chunkWritten s) = chunkRegs s (okStatus s.status 0x00030103#32) := by
  have hstatus : setErrSticky (setErrCode .crcMismatch (setChunkValid (setResValid s.status))) =
      okStatus s.status 0x00030103#32 := by
    rw [setErrCode_setChunkValid_setResValid]
    exact BitVec.or_assoc _ _ _
  rw [chunkWritten_eq_chunkRegs, raise]
  exact congrArg (chunkRegs s) hstatus

/-! ### The outcomes of `CHUNK.CHK` -/

/-- A header that does not fit raises `RANGE` at the first check. -/
theorem exec_chunkChk_of_header_over {s : State} (hover : s.config.memSize < s.addr.toNat + 8) :
    exec .chunkChk s = .next (raise .range s) :=
  overRange_over _ _ _ _ hover

/-- Where the header has been read, a chunk that does not fit raises `RANGE` at the second check. -/
theorem exec_chunkChk_of_chunk_over {s : State} (hheader : s.addr.toNat + 8 ≤ s.config.memSize)
    (hdevice : NoDevice s.config s.addr.toNat 8) (hover : s.config.memSize < s.addr.toNat + 12 + chunkL s) :
    exec .chunkChk s = .next (raise .range s) :=
  (overRange_fits _ _ _ _ hheader hdevice).trans (overRange_over _ _ _ _ (Nat.add_assoc _ _ _ ▸ hover))

/-- A chunk that fits gets past both checks, and the verdict is by the two CRCs. -/
theorem exec_chunkChk_of_fits {s : State} (hfits : ChunkFits s) :
    exec .chunkChk s = .next (if chunkCrcOf s = wordAt s (s.addr.toNat + 8 + chunkL s) then
      succeed (chunkWritten s) else raise .crcMismatch (chunkWritten s)) := by
  obtain ⟨hrange, hdevice⟩ := hfits
  have hheader : NoDevice s.config s.addr.toNat 8 := deviceInRange_mono _ hdevice (by omega) (by omega)
  have hchunk : s.addr.toNat + (12 + chunkL s) ≤ s.config.memSize := by omega
  rw [chunkCrcOf, ← chunkComputedCrc_eq_crc32]
  exact (overRange_fits _ _ _ _ (by omega) hheader).trans (overRange_fits _ _ _ _ hchunk hdevice)

theorem exec_chunkChk_of_match {s : State} (hfits : ChunkFits s)
    (hcrc : chunkCrcOf s = wordAt s (s.addr.toNat + 8 + chunkL s)) :
    exec .chunkChk s = .next (chunkRegs s (okStatus s.status 0x00030000#32)) := by
  rw [exec_chunkChk_of_fits hfits, if_pos hcrc, succeed_chunkWritten]

theorem exec_chunkChk_of_mismatch {s : State} (hfits : ChunkFits s)
    (hcrc : chunkCrcOf s ≠ wordAt s (s.addr.toNat + 8 + chunkL s)) :
    exec .chunkChk s = .next (chunkRegs s (okStatus s.status 0x00030103#32)) := by
  rw [exec_chunkChk_of_fits hfits, if_neg hcrc, raise_crcMismatch_chunkWritten]

/-- Settles O25: the two range checks, then the two verdicts. -/
theorem chunkCheckCommand : Obligations.ChunkCheckCommand := by
  refine ⟨decode_encode .chunkChk, fun s => ⟨fun hover => ?_, fun hheader hdevice hover => ?_,
    exec_chunkChk_of_match, exec_chunkChk_of_mismatch⟩⟩
  · exact (exec_chunkChk_of_header_over hover).trans (congrArg _ (raise_eq_raised .range s))
  · exact (exec_chunkChk_of_chunk_over hheader hdevice hover).trans (congrArg _ (raise_eq_raised .range s))

end Sys2Proof.Machine
end

section
/-! PROOFS. One changed byte is detected (41_chunk_store.md R174): the bit step loses no information, so neither does the CRC in any
one byte of its input. -/

namespace Sys2Proof.Machine

open Sys2Proof.Statements

/-! ### The CRC keeps apart what differs in one byte -/

/-- The top bit of a step says whether the polynomial was added. -/
theorem getLsbD_stepBit_top (c : Word) : (stepBit c).getLsbD 31 = c.getLsbD 0 := by
  rw [stepBit_eq_xor, BitVec.getLsbD_xor, BitVec.getLsbD_ushiftRight, BitVec.getLsbD_of_ge c _ (by decide)]
  cases c.getLsbD 0 <;> rfl

/-- By linearity it is enough that no word but 0 steps to 0. -/
theorem stepBit_injective : Function.Injective stepBit := by
  have hkernel : ∀ x : Word, stepBit x = 0#32 → x = 0#32 := fun x hx => by
    have hlow : x.getLsbD 0 = false := by rw [← getLsbD_stepBit_top, hx, BitVec.getLsbD_zero]
    rw [stepBit_of_getLsbD_zero hlow] at hx
    apply BitVec.eq_of_getLsbD_eq
    intro i _
    cases i with
    | zero => exact hlow
    | succ i => rw [Nat.add_comm, ← BitVec.getLsbD_ushiftRight, hx, BitVec.getLsbD_zero, BitVec.getLsbD_zero]
  intro c d h
  exact BitVec.xor_eq_zero_iff.mp (hkernel _ (by rw [stepBit_xor, h, BitVec.xor_self]))

theorem shiftBits_injective (n : Nat) : Function.Injective (shiftBits · n) := by
  induction n with
  | zero => exact fun _ _ h => h
  | succ n ih => exact ih.comp stepBit_injective

theorem zext32_injective : Function.Injective zext32 :=
  Function.LeftInverse.injective (g := BitVec.setWidth 8) fun b =>
    (BitVec.setWidth_setWidth_of_le b (by decide)).trans (BitVec.setWidth_eq b)

theorem crcByteStep_injective_accumulator (b : Byte) : Function.Injective (crcByteStep · b) :=
  fun _ _ h => (BitVec.xor_left_inj _).mp (shiftBits_injective 8 h)

theorem crcByteStep_injective_byte (c : Word) : Function.Injective (crcByteStep c) :=
  fun _ _ h => zext32_injective ((BitVec.xor_right_inj _).mp (shiftBits_injective 8 h))

theorem foldl_crcByteStep_injective (d : List Byte) : Function.Injective (d.foldl crcByteStep) := by
  induction d with
  | nil => exact fun _ _ h => h
  | cons b d ih => exact ih.comp (crcByteStep_injective_accumulator b)

theorem crc32_injective_byte (d e : List Byte) (seed : Word) :
    Function.Injective fun b => crc32 (d ++ b :: e) seed := by
  intro b b' h
  simp only [crc32, List.foldl_append, List.foldl_cons, BitVec.not_inj] at h
  exact crcByteStep_injective_byte _ (foldl_crcByteStep_injective e h)

/-! ### A field of memory with one byte changed -/

/-- A write outside a range leaves the bytes read from it. -/
theorem readBytes_write_outside (m : Memory) {x p n : Nat} (b : Byte) (h : x < p ∨ p + n ≤ x) :
    (m.write x b).readBytes p n = m.readBytes p n :=
  readBytes_congr _ _ _ _ fun y _ _ => read_write_other m b (by omega)

/-- A write inside a range changes one of the bytes read from it. -/
theorem readBytes_write_inside (m : Memory) {x p n : Nat} (b : Byte) (h1 : p ≤ x) (h2 : x < p + n) :
    ∃ d e, m.readBytes p n = d ++ m.read x :: e ∧ (m.write x b).readBytes p n = d ++ b :: e := by
  obtain ⟨i, rfl⟩ := Nat.exists_eq_add_of_le h1
  obtain ⟨k, rfl⟩ : ∃ k, n = i + (k + 1) := ⟨n - i - 1, by omega⟩
  refine ⟨m.readBytes p i, m.readBytes (p + i + 1) k, ?_, ?_⟩
  · rw [readBytes_add, readBytes_succ]
  · rw [readBytes_add, readBytes_succ, read_write_same, readBytes_write_outside m b (by omega),
      readBytes_write_outside m b (by omega)]

theorem bytesBe_be32 (b0 b1 b2 b3 : Byte) : bytesBe (be32 b0 b1 b2 b3) = [b0, b1, b2, b3] := by
  simp only [bytesBe, List.cons.injEq, and_true]
  refine ⟨?_, ?_, ?_, ?_⟩ <;>
  · apply BitVec.eq_of_getLsbD_eq
    intro i hi
    interval_cases i <;> simp [be32, getElem_zext32]

/-- A big-endian word holds each of the four bytes it is read from (00_scope.md R20). -/
theorem bytesBe_readBe32 (m : Memory) (p : Nat) : bytesBe (m.readBe32 p) = m.readBytes p 4 :=
  bytesBe_be32 _ _ _ _

theorem readBe32_write_outside (m : Memory) {x p : Nat} (b : Byte) (h : x < p ∨ p + 4 ≤ x) :
    (m.write x b).readBe32 p = m.readBe32 p := by
  simp only [Memory.readBe32]
  rw [read_write_other m b (by omega), read_write_other m b (by omega), read_write_other m b (by omega),
    read_write_other m b (by omega)]

theorem readBe32_write_inside_ne (m : Memory) {x p : Nat} {b : Byte} (h1 : p ≤ x) (h2 : x < p + 4)
    (hb : b ≠ m.read x) : (m.write x b).readBe32 p ≠ m.readBe32 p := by
  obtain ⟨d, e, hold, hnew⟩ := readBytes_write_inside m b h1 h2
  intro h
  have hbytes : d ++ b :: e = d ++ m.read x :: e := by
    rw [← hnew, ← hold, ← bytesBe_readBe32, h, bytesBe_readBe32]
  exact hb (List.cons.inj (List.append_cancel_left hbytes)).1

theorem crc32_readBytes_write_inside_ne (m : Memory) {x p n : Nat} {b : Byte} (seed : Word) (h1 : p ≤ x)
    (h2 : x < p + n) (hb : b ≠ m.read x) :
    crc32 ((m.write x b).readBytes p n) seed ≠ crc32 (m.readBytes p n) seed := by
  obtain ⟨d, e, hold, hnew⟩ := readBytes_write_inside m b h1 h2
  rw [hold, hnew]
  exact (crc32_injective_byte d e seed).ne hb

/-! ### The check of a chunk with one byte changed -/

/-- A write behind the length field leaves the chunk where it was. -/
theorem chunkL_write {s : State} {x : Nat} (b : Byte) (hx : s.addr.toNat + 4 ≤ x) :
    chunkL { s with mem := s.mem.write x b } = chunkL s :=
  congrArg BitVec.toNat (readBe32_write_outside s.mem b (.inr hx))

/-- The byte lies either in what the CRC covers or in the CRC field, so of two values that agreed exactly one changes. -/
theorem chunkCrcOf_ne_wordAt_of_write {s : State} {x : Nat} {b : Byte}
    (hcrc : chunkCrcOf s = wordAt s (s.addr.toNat + 8 + chunkL s)) (hlow : s.addr.toNat + 4 ≤ x)
    (hhigh : x < s.addr.toNat + 12 + chunkL s) (hb : b ≠ s.mem.read x) :
    chunkCrcOf { s with mem := s.mem.write x b } ≠
      wordAt { s with mem := s.mem.write x b } (s.addr.toNat + 8 + chunkL s) := by
  have hcovered : chunkCrcOf { s with mem := s.mem.write x b } =
      crc32 ((s.mem.write x b).readBytes (s.addr.toNat + 4) (4 + chunkL s)) 0#32 := by
    rw [chunkCrcOf, chunkL_write b hlow]
  rw [hcovered]
  by_cases hx : x < s.addr.toNat + 8 + chunkL s
  · have hstored : wordAt { s with mem := s.mem.write x b } (s.addr.toNat + 8 + chunkL s) = chunkCrcOf s :=
      (readBe32_write_outside s.mem b (.inl hx)).trans hcrc.symm
    rw [hstored]
    exact crc32_readBytes_write_inside_ne s.mem 0#32 hlow (by omega) hb
  · rw [readBytes_write_outside s.mem b (.inr (by omega))]
    intro h
    exact readBe32_write_inside_ne s.mem (not_lt.mp hx) (by omega) hb (h.symm.trans hcrc)

/-- Settles O26: the changed chunk has the same length and so still fits, and its two CRCs differ. -/
theorem oneByteCorruptionIsDetected : Obligations.OneByteCorruptionIsDetected := by
  intro s x b hfits hcrc hlow hhigh hb
  let u : State := { s with mem := s.mem.write x b }
  have hlength : chunkL u = chunkL s := chunkL_write b hlow
  have hfits' : ChunkFits u := by rwa [ChunkFits, hlength]
  have hne : chunkCrcOf u ≠ wordAt u (u.addr.toNat + 8 + chunkL u) := by
    rw [hlength]
    exact chunkCrcOf_ne_wordAt_of_write hcrc hlow hhigh hb
  exact ⟨_, exec_chunkChk_of_mismatch hfits' hne, rfl, hne⟩

end Sys2Proof.Machine
end

section
/-! PROOFS. The opcode map as a bijection between commands and the words that are not illegal (30_encoding.md R101, R104, R107). -/

namespace Sys2Proof

open Sys2Proof.Statements

/-- Every pattern of the map is the word put together from the fields of the row's command. -/
theorem pattern_eq_encode : ∀ r ∈ opcodeTable, r.pattern = encode r.instr := by decide

theorem eq_encode_of_decode {w : Word} {i : Instr} (h : decode w = some i) : w = encode i := by
  obtain ⟨r, hfind, rfl⟩ := Option.map_eq_some_iff.mp h
  have hmem : r ∈ opcodeTable := List.mem_of_find?_eq_some hfind
  have hcovers := List.find?_some hfind
  calc w
      _ = r.pattern := (covers_iff hmem w).mp hcovers
      _ = encode r.instr := pattern_eq_encode r hmem

/-- Settles O2: the row found for a word covers that word alone, and a command's word finds the command's row. -/
theorem decodeInvertsEncode : Obligations.DecodeInvertsEncode :=
  fun _ i => ⟨eq_encode_of_decode, fun h => h ▸ decode_encode i⟩

/-! ### The fields of a word -/

/-- A word is its fields RSV, ORD and OP side by side (30_encoding.md R101). -/
theorem fields_append (w : Word) : (rsvField w ++ ordField w) ++ opField w = w := by
  calc (rsvField w ++ ordField w) ++ opField w
      _ = w.extractLsb' 8 24 ++ opField w :=
        congrArg (· ++ opField w) (BitVec.extractLsb'_append_extractLsb'_eq_extractLsb' rfl)
      _ = w.extractLsb' 0 32 := BitVec.extractLsb'_append_extractLsb'_eq_extractLsb' rfl
      _ = w := BitVec.extractLsb'_eq_self

/-- Legal values of OP and ORD are those of a command (30_encoding.md R102, R105). -/
theorem exists_command_of_fields : ∀ op ∈ usedOps, ∀ ord : BitVec 1, ord = 0#1 ∨ op = 0x20#8 →
    ∃ i ∈ commands, opOf i = op ∧ ordOf i = ord := by decide

theorem exists_encode_of_not_fieldsIllegal {w : Word} (h : ¬ FieldsIllegal w) : ∃ i, w = encode i := by
  simp only [FieldsIllegal, not_or, not_and, not_not] at h
  obtain ⟨hrsv, hord, hop⟩ := h
  have hlegal : ordField w = 0#1 ∨ opField w = 0x20#8 :=
    (BitVec.eq_zero_or_eq_one (ordField w)).imp_right hord
  obtain ⟨i, _, hopOf, hordOf⟩ := exists_command_of_fields (opField w) hop (ordField w) hlegal
  refine ⟨i, ?_⟩
  calc w
      _ = (rsvField w ++ ordField w) ++ opField w := (fields_append w).symm
      _ = encode i := by rw [encode, hopOf, hordOf, show rsvField w = 0#23 from hrsv]

/-- Settles O3: fields that are no illegal case are those of a command's word. -/
theorem illegalWordsAreTheFieldCases : Obligations.IllegalWordsAreTheFieldCases := by
  refine fun w => ⟨fun hnone => ?_, decode_eq_none_of_fieldsIllegal⟩
  by_contra hlegal
  obtain ⟨i, rfl⟩ := exists_encode_of_not_fieldsIllegal hlegal
  rw [decode_encode] at hnone
  cases hnone

end Sys2Proof
end

section
/-! PROOFS. The step as the taking of one event (10_state.md R33, R37). -/

namespace Sys2Proof.Machine

open Sys2Proof.Statements

theorem issueCommand_of_decode {w : Word} {i : Instr} (h : decode w = some i) (s : State) :
    issueCommand w s = exec i s := by
  rw [issueCommand, h]

/-- Settles O5: the write to `CMD` is issued, and what decodes runs. -/
theorem stepRunsDecodedCommand : Obligations.StepRunsDecodedCommand := fun s w _ rest hdecode =>
  (step_withCommand w rest s).trans (issueCommand_of_decode hdecode _)

theorem withFetchWord_encode (s : State) (i : Instr) :
    s.withFetchWord 32 (encode i).toNat = withCommand (encode i) s.pending s := by
  have hword : BitVec.ofNat 32 ((encode i).toNat % 2 ^ 32) = encode i := by
    rw [Nat.mod_eq_of_lt (encode i).isLt, BitVec.ofNat_toNat, BitVec.setWidth_eq]
  rw [State.withFetchWord, queueCommand, hword]
  rfl

/-- Settles O6: the prepared state is one at a write to `CMD`, with the state's own events after it. -/
theorem preparedWordRuns : Obligations.PreparedWordRuns := by
  intro s i
  rw [withFetchWord_encode]
  exact stepRunsDecodedCommand s (encode i) i s.pending (decode_encode i)

/-- Settles O7 by the step's own equation. -/
theorem idleStepChangesNothing : Obligations.IdleStepChangesNothing := step_idle

end Sys2Proof.Machine
end

section
/-! PROOFS. The check value of `Crc32`, and that it keeps apart what differs in one byte (40_crc.md R131, R132). -/

namespace Sys2Proof.Machine

/-- Settles O13 by running the byte table on the nine bytes. -/
theorem checkValueOfNineDigits : Obligations.CheckValueOfNineDigits := by
  unfold Obligations.CheckValueOfNineDigits
  rw [← algorithmsComputeCrc32 .byte]
  decide

/-- Settles O17: no step of the CRC loses what one byte brought in. -/
theorem oneByteChangeChangesCrc : Obligations.OneByteChangeChangesCrc :=
  fun d e _ _ seed hne => (crc32_injective_byte d e seed).ne hne

end Sys2Proof.Machine
end

section
/-! PROOFS. How a command ends, as one relation: the case analysis from which what every command keeps is read off. -/

namespace Sys2Proof.Machine

open Sys2Proof.Statements

/-! ### The kinds of command -/

/-- A member of the CRC family runs `crcCommand` with one of the algorithms (40_crc.md R150 to R154). -/
theorem exists_crcCommand_of_mem {i : Instr} (hi : i ∈ crcFamily) :
    ∃ alg, ∀ s, exec i s = crcCommand alg s := by
  have hcases : i = .crcBit ∨ i = .crcNib ∨ i = .crcByte ∨ i = .crcS4 ∨ i = .crc := by
    simpa [crcFamily] using hi
  rcases hcases with rfl | rfl | rfl | rfl | rfl
  · exact ⟨.bitwise, fun _ => rfl⟩
  · exact ⟨.nibble, fun _ => rfl⟩
  · exact ⟨.byte, fun _ => rfl⟩
  · exact ⟨.slicing, fun _ => rfl⟩
  · exact ⟨.slicing, fun _ => rfl⟩

/-- A command that stores runs `storeCommand` on the four bytes it stores (41_chunk_store.md R180, R181). -/
theorem exec_eq_storeCommand {i : Instr} {s : State} {d : List Byte} (hd : storedBytes i s.result = some d) :
    exec i s = storeCommand d s ∧ d.length = 4 := by
  cases i with
  | storeBe => cases hd; exact ⟨rfl, rfl⟩
  | storeLe => cases hd; exact ⟨rfl, rfl⟩
  | _ => cases hd

theorem isSome_storedBytes_iff (i : Instr) (v : Word) :
    (storedBytes i v).isSome = true ↔ i = .storeBe ∨ i = .storeLe := by
  cases i <;> simp [storedBytes]

theorem ne_of_mem_crcFamily {i : Instr} (hi : i ∈ crcFamily) : i ≠ .chunkChk ∧ i ≠ .storeBe ∧ i ≠ .storeLe := by
  refine ⟨?_, ?_, ?_⟩ <;>
  · rintro rfl
    exact absurd hi (by decide)

theorem not_crc_of_storedBytes {i : Instr} {v : Word} {d : List Byte} (hd : storedBytes i v = some d) :
    i ∉ crcFamily ∧ i ≠ .chunkChk := by
  cases i with
  | storeBe => decide
  | storeLe => decide
  | _ => cases hd

/-- Every command is of the CRC family, the chunk check or a store (00_scope.md R4). -/
theorem kind_cases (i : Instr) (v : Word) :
    i ∈ crcFamily ∨ i = .chunkChk ∨ ∃ d, storedBytes i v = some d := by
  cases i with
  | chunkChk => exact .inr (.inl rfl)
  | storeBe => exact .inr (.inr ⟨_, rfl⟩)
  | storeLe => exact .inr (.inr ⟨_, rfl⟩)
  | _ => exact .inl (by decide)

/-! ### The ways a command ends -/

/-- The state after a store of `d` that fits. -/
def stored (d : List Byte) (s : State) : State := succeed { s with mem := s.mem.writeBytes s.addr.toNat d }

/-- The states in which the command `i` can leave `s`, one constructor for each row of the outcome table (10_state.md R53). -/
inductive Ends (i : Instr) (s : State) : State → Prop where
  | range : Ends i s (raise .range s)
  | crc (alg : CrcAlg) (hi : i ∈ crcFamily) : Ends i s (crcDone alg s)
  | chunkGood (hi : i = .chunkChk) : Ends i s (succeed (chunkWritten s))
  | chunkBad (hi : i = .chunkChk) : Ends i s (raise .crcMismatch (chunkWritten s))
  | stored (d : List Byte) (hd : storedBytes i s.result = some d) (hlength : d.length = 4)
      (hfits : s.addr.toNat + 4 ≤ s.config.memSize) : Ends i s (stored d s)

theorem exec_ends {i : Instr} {s t : State} (h : exec i s = .next t) : Ends i s t := by
  rcases kind_cases i s.result with hi | rfl | ⟨d, hd⟩
  · obtain ⟨alg, hexec⟩ := exists_crcCommand_of_mem hi
    rcases crcCommand_next alg s t ((hexec s).symm.trans h) with ⟨_, rfl⟩ | ⟨_, _, rfl⟩
    · exact .range
    · exact .crc alg hi
  · rcases execChunkChk_next s t h with ⟨_, rfl⟩ | ⟨_, _, ht⟩
    · exact .range
    · split at ht
      · exact ht ▸ .chunkGood rfl
      · exact ht ▸ .chunkBad rfl
  · obtain ⟨hexec, hlength⟩ := exec_eq_storeCommand hd
    rcases storeCommand_next d s t (hexec.symm.trans h) with ⟨_, rfl⟩ | ⟨hfits, _, rfl⟩
    · exact .range
    · exact .stored d hd hlength hfits

/-! ### What a command leaves alone -/

/-- Settles O31: no way to end writes an operand. -/
theorem noCommandWritesOperands : Obligations.NoCommandWritesOperands := by
  intro i s t h
  cases exec_ends h with
  | range => exact ⟨rfl, rfl, rfl, rfl, rfl, rfl⟩
  | crc alg hi => exact ⟨rfl, rfl, rfl, rfl, rfl, rfl⟩
  | chunkGood hi => exact ⟨rfl, rfl, rfl, rfl, rfl, rfl⟩
  | chunkBad hi => exact ⟨rfl, rfl, rfl, rfl, rfl, rfl⟩
  | stored d hd hlength hfits => exact ⟨rfl, rfl, rfl, rfl, rfl, rfl⟩

theorem exec_mem_of_not_store {i : Instr} {s t : State} (h : exec i s = .next t)
    (hi : ∀ d, storedBytes i s.result ≠ some d) : t.mem = s.mem := by
  cases exec_ends h with
  | range => rfl
  | crc alg hi => rfl
  | chunkGood hi => rfl
  | chunkBad hi => rfl
  | stored d hd hlength hfits => exact absurd hd (hi d)

theorem exec_read_outside {i : Instr} {s t : State} (h : exec i s = .next t) {x : Nat}
    (hx : x < s.addr.toNat ∨ s.addr.toNat + 4 ≤ x) : t.mem.read x = s.mem.read x := by
  cases exec_ends h with
  | range => rfl
  | crc alg hi => rfl
  | chunkGood hi => rfl
  | chunkBad hi => rfl
  | stored d hd hlength hfits => exact read_writeBytes_outside _ _ _ _ (by rwa [hlength])

theorem storedBytes_eq_none {i : Instr} (hbe : i ≠ .storeBe) (hle : i ≠ .storeLe) (v : Word) :
    storedBytes i v = none := by
  rw [← Option.not_isSome_iff_eq_none, isSome_storedBytes_iff, not_or]
  exact ⟨hbe, hle⟩

/-- Settles O32: of the ways to end only a store's writes memory. -/
theorem onlyStoresWriteMemory : Obligations.OnlyStoresWriteMemory := by
  refine fun i s t h => ⟨fun hbe hle => exec_mem_of_not_store h fun d hd => ?_, fun x => exec_read_outside h⟩
  rw [storedBytes_eq_none hbe hle] at hd
  cases hd

/-- Settles O33: only a chunk check ends with its registers written, and only it and the CRC family with `RESULT` written. -/
theorem resultRegistersHaveOneWriter : Obligations.ResultRegistersHaveOneWriter := by
  intro i s t h
  cases exec_ends h with
  | range => exact ⟨fun _ => ⟨rfl, rfl, rfl, rfl⟩, fun _ => rfl⟩
  | crc alg hi => exact ⟨fun _ => ⟨rfl, rfl, rfl, rfl⟩, fun hnot => absurd (List.mem_cons_of_mem _ hi) hnot⟩
  | chunkGood hi => exact ⟨fun hne => absurd hi hne, fun hnot => absurd (hi ▸ List.mem_cons_self) hnot⟩
  | chunkBad hi => exact ⟨fun hne => absurd hi hne, fun hnot => absurd (hi ▸ List.mem_cons_self) hnot⟩
  | stored d hd hlength hfits => exact ⟨fun _ => ⟨rfl, rfl, rfl, rfl⟩, fun _ => rfl⟩

/-! ### The error code and the flags a command leaves -/

theorem errCodeOf_raise (e : ErrCode) (s : State) : errCodeOf (raise e s).status = e.code := by simp

theorem errCodeOf_succeed (s : State) : errCodeOf (succeed s).status = 0#4 := by simp [ErrCode.code]

/-- The codes a command ends with (60_exceptions.md R201): success, `RANGE` with nothing else changed, or a chunk check's mismatch. -/
theorem exec_errCode {i : Instr} {s t : State} (h : exec i s = .next t) :
    errCodeOf t.status = 0#4 ∨ (errCodeOf t.status = 2#4 ∧ t = raised 2#32 s) ∨
      (errCodeOf t.status = 3#4 ∧ i = .chunkChk) := by
  cases exec_ends h with
  | range => exact .inr (.inl ⟨errCodeOf_raise .range s, raise_eq_raised .range s⟩)
  | crc alg hi => exact .inl (errCodeOf_succeed _)
  | chunkGood hi => exact .inl (errCodeOf_succeed _)
  | chunkBad hi => exact .inr (.inr ⟨errCodeOf_raise .crcMismatch _, hi⟩)
  | stored d hd hlength hfits => exact .inl (errCodeOf_succeed _)

/-- Settles O34: the code of an illegal word is 1, and no command has that code. -/
theorem failedCommandsChangeOnlyStatus : Obligations.FailedCommandsChangeOnlyStatus := by
  intro s t w h
  rcases issueCommand_next w s t h with ⟨hdecode, ht⟩ | ⟨i, hdecode, hexec⟩
  · have hcode : errCodeOf t.status = 1#4 := ht ▸ errCodeOf_raise .illegalCmd s
    have hraised : t = raised 1#32 s := ht.trans (raise_eq_raised .illegalCmd s)
    simp [hcode, hdecode, ← hraised]
  · rcases exec_errCode hexec with hcode | ⟨hcode, hraised⟩ | ⟨hcode, hi⟩
    · simp [hcode, hdecode]
    · simp [hcode, hdecode, ← hraised]
    · simp [hcode, hdecode, hi]

/-! ### The rows of the outcome table (10_state.md R53) -/

/-- The three flags of a state. -/
def flags (s : State) : Bool × Bool × Bool := (errStickyOf s.status, resValidOf s.status, chunkValidOf s.status)

theorem flags_eq_iff (s : State) (sticky res chunk : Bool) : flags s = (sticky, res, chunk) ↔
    errStickyOf s.status = sticky ∧ resValidOf s.status = res ∧ chunkValidOf s.status = chunk := by
  simp [flags]

theorem flags_raise (e : ErrCode) (s : State) :
    flags (raise e s) = (true, resValidOf s.status, chunkValidOf s.status) := by simp [flags]

theorem flags_crcDone (alg : CrcAlg) (s : State) :
    flags (crcDone alg s) = (errStickyOf s.status, true, chunkValidOf s.status) := by simp [flags, crcDone]

theorem flags_succeed_chunkWritten (s : State) :
    flags (succeed (chunkWritten s)) = (errStickyOf s.status, true, true) := by simp [flags, chunkWritten]

theorem flags_raise_chunkWritten (e : ErrCode) (s : State) :
    flags (raise e (chunkWritten s)) = (true, true, true) := by simp [flags, chunkWritten]

theorem flags_stored (d : List Byte) (s : State) :
    flags (stored d s) = (errStickyOf s.status, resValidOf s.status, chunkValidOf s.status) := by simp [flags, stored]

/-- Settles O35: each way to end is a row of the table, and its code and its command are those of no other row. -/
theorem flagsFollowTheOutcomeTable : Obligations.FlagsFollowTheOutcomeTable := by
  intro s t w h
  simp only [← flags_eq_iff]
  rcases issueCommand_next w s t h with ⟨hdecode, rfl⟩ | ⟨i, hdecode, hexec⟩
  · have hcode := errCodeOf_raise .illegalCmd s
    simp [-raise_status, hcode, ErrCode.code, flags_raise]
  · cases exec_ends hexec with
    | range =>
      have hcode := errCodeOf_raise .range s
      simp [-raise_status, hcode, ErrCode.code, flags_raise]
    | crc alg hi =>
      have hcode : errCodeOf (crcDone alg s).status = 0#4 := errCodeOf_succeed _
      obtain ⟨hchunk, hbe, hle⟩ := ne_of_mem_crcFamily hi
      simp [hcode, hdecode, flags_crcDone, hchunk, hbe, hle]
    | chunkGood hi =>
      subst hi
      have hcode := errCodeOf_succeed (chunkWritten s)
      simp [-succeed_status, hcode, hdecode, flags_succeed_chunkWritten, crcFamily]
    | chunkBad hi =>
      have hcode := errCodeOf_raise .crcMismatch (chunkWritten s)
      simp [-raise_status, hcode, ErrCode.code, flags_raise_chunkWritten]
    | stored d hd hlength hfits =>
      have hcode : errCodeOf (stored d s).status = 0#4 := errCodeOf_succeed _
      obtain ⟨hcrc, hchunk⟩ := not_crc_of_storedBytes hd
      simp [hcode, hdecode, flags_stored, hcrc, hchunk]

end Sys2Proof.Machine
end

section
/-! PROOFS. The invariant (State.Inv) under each update of the state, and so under every command, host access and reset. -/

namespace Sys2Proof.Machine

/-! ### Updates that keep the invariant -/

/-- The fields of the model's own are not part of the invariant. -/
theorem inv_record (s : State) (p : List HostEvent) (r : List Reply) (h : s.Inv) :
    State.Inv { s with pending := p, replies := r } := { h with }

/-- An update of `STATUS` alone keeps the invariant where it keeps the reserved bits 0 and both valid bits. -/
theorem inv_status {s : State} {st : Word} (h : s.Inv) (hlegal : statusLegal st = true)
    (hres : resValidOf st = resValidOf s.status) (hchunk : chunkValidOf st = chunkValidOf s.status) :
    State.Inv { s with status := st } :=
  { h with
    status_legal := hlegal
    result_unwritten := fun hr => h.result_unwritten (hres ▸ hr)
    chunk_unwritten := fun hc => h.chunk_unwritten (hchunk ▸ hc)
    chunk_implies_result := fun hc => hres ▸ h.chunk_implies_result (hchunk ▸ hc) }

theorem inv_raise (e : ErrCode) {s : State} (h : s.Inv) : (raise e s).Inv :=
  inv_status h (statusLegal_setErrSticky _ (statusLegal_setErrCode e _ h.status_legal)) (by simp) (by simp)

theorem inv_succeed {s : State} (h : s.Inv) : (succeed s).Inv :=
  inv_status h (statusLegal_setErrCode .none _ h.status_legal) (by simp) (by simp)

theorem inv_mem {s : State} {m : Memory} (h : s.Inv) (hwf : m.wf = true)
    (hbelow : m.below s.config.memSize = true) : State.Inv { s with mem := m } :=
  { h with mem_wf := hwf, mem_below := hbelow }

theorem inv_writeBytes {s : State} {a : Nat} {d : List Byte} (h : s.Inv) (hfits : a + d.length ≤ s.config.memSize) :
    State.Inv { s with mem := s.mem.writeBytes a d } :=
  inv_mem h (writeBytes_wf _ _ _ h.mem_wf) (writeBytes_below _ _ _ _ h.mem_below hfits)

/-- A written `RESULT` comes with its valid bit. -/
theorem inv_writeResult (v : Word) {s : State} (h : s.Inv) : (writeResult v s).Inv where
  config_wf := h.config_wf
  mem_wf := h.mem_wf
  mem_below := h.mem_below
  status_legal := statusLegal_setResValid _ h.status_legal
  result_unwritten := by simp
  chunk_unwritten hc := h.chunk_unwritten (by simpa using hc)
  chunk_implies_result := by simp

/-- Written chunk registers come with both valid bits. -/
theorem inv_chunkWritten {s : State} (h : s.Inv) : (chunkWritten s).Inv where
  config_wf := h.config_wf
  mem_wf := h.mem_wf
  mem_below := h.mem_below
  status_legal := statusLegal_setChunkValid _ (statusLegal_setResValid _ h.status_legal)
  result_unwritten := by simp [chunkWritten]
  chunk_unwritten := by simp [chunkWritten]
  chunk_implies_result := by simp [chunkWritten]

theorem statusLegal_statusAfterHostWrite (v : Word) {st : Word} (h : statusLegal st = true) :
    statusLegal (statusAfterHostWrite v st) = true := by
  unfold statusAfterHostWrite
  split
  · exact statusLegal_clearErrSticky st h
  · exact h

@[simp] theorem resValidOf_statusAfterHostWrite (v st : Word) :
    resValidOf (statusAfterHostWrite v st) = resValidOf st :=
  getLsbD_statusAfterHostWrite_of_ne v st (by decide)

@[simp] theorem chunkValidOf_statusAfterHostWrite (v st : Word) :
    chunkValidOf (statusAfterHostWrite v st) = chunkValidOf st :=
  getLsbD_statusAfterHostWrite_of_ne v st (by decide)

/-- The registers the host writes are operands, but for `STATUS`. -/
theorem inv_writeReg (r : RegName) (v : Word) {s : State} (h : s.Inv) : (writeReg r v s).Inv := by
  cases r with
  | status => exact inv_status h (statusLegal_statusAfterHostWrite v h.status_legal) (by simp) (by simp)
  | seed => exact { h with }
  | addr => exact { h with }
  | len => exact { h with }
  | _ => exact h

/-- The reset values meet the invariant over any memory that does (10_state.md R60). -/
theorem inv_resetRegisters {s : State} {m : Memory} (h : s.Inv) (hwf : m.wf = true)
    (hbelow : m.below s.config.memSize = true) : State.Inv { resetRegisters s with mem := m } where
  config_wf := h.config_wf
  mem_wf := hwf
  mem_below := hbelow
  status_legal := (by decide : statusLegal 0x00000000#32 = true)
  result_unwritten _ := rfl
  chunk_unwritten _ := ⟨rfl, rfl, rfl, rfl⟩
  chunk_implies_result hc := absurd hc (by simp [chunkValidOf])

/-! ### Commands and steps -/

theorem exec_inv {i : Instr} {s t : State} (h : s.Inv) (hexec : exec i s = .next t) : t.Inv := by
  cases exec_ends hexec with
  | range => exact inv_raise .range h
  | crc alg hi => exact inv_succeed (inv_writeResult _ h)
  | chunkGood hi => exact inv_succeed (inv_chunkWritten h)
  | chunkBad hi => exact inv_raise .crcMismatch (inv_chunkWritten h)
  | stored d hd hlength hfits => exact inv_succeed (inv_writeBytes h (hlength.symm ▸ hfits))

theorem issueCommand_inv {w : Word} {s t : State} (h : s.Inv) (hissue : issueCommand w s = .next t) : t.Inv := by
  rcases issueCommand_next w s t hissue with ⟨_, rfl⟩ | ⟨i, _, hexec⟩
  · exact inv_raise .illegalCmd h
  · exact exec_inv h hexec

theorem handle_inv {e : HostEvent} {s t : State} (h : s.Inv) (hhandle : handle e s = .next t) : t.Inv := by
  rcases handle_next e s t hhandle with ⟨w, _, hissue⟩ | ⟨_, r, v, rfl⟩ | ⟨_, r, rfl⟩ | ⟨a, d, _, hfits, rfl⟩ |
    ⟨_, m, rfl, hwf, hbelow⟩
  · exact issueCommand_inv h hissue
  · exact inv_writeReg r v h
  · exact inv_record s s.pending _ h
  · exact inv_writeBytes h hfits
  · exact inv_resetRegisters h (hwf h.mem_wf) (hbelow h.mem_below)

/-- All a step can do: nothing where no event is outstanding, and otherwise what the first event does. -/
theorem step_next {s t : State} (h : step s = .next t) : (s.pending = [] ∧ t = s) ∨
    ∃ e rest, s.pending = e :: rest ∧ handle e { s with pending := rest } = .next t := by
  cases hp : s.pending with
  | nil => exact .inl ⟨rfl, Host.Outcome.next.inj (h.symm.trans (step_idle s hp))⟩
  | cons e rest => exact .inr ⟨e, rest, rfl, (step_pending s e rest hp).symm.trans h⟩

/-- Settles O54: the step takes an event off the list, which the invariant does not see, and handles it. -/
theorem everyStepKeepsInvariant : Obligations.EveryStepKeepsInvariant := by
  intro s t hinv hstep
  rcases step_next hstep with ⟨_, rfl⟩ | ⟨e, rest, _, hhandle⟩
  · exact hinv
  · exact handle_inv (inv_record s rest s.replies hinv) hhandle

/-- Settles O53: every field holds its reset value, over a memory that lists nothing. -/
theorem resetStateMeetsInvariant : Obligations.ResetStateMeetsInvariant where
  config_wf := by decide
  mem_wf := rfl
  mem_below := rfl
  status_legal := rfl
  result_unwritten _ := rfl
  chunk_unwritten _ := ⟨rfl, rfl, rfl, rfl⟩
  chunk_implies_result := by decide

end Sys2Proof.Machine
end

section
/-! PROOFS. What no step changes: the parameters and the outstanding events behind the first (10_state.md R31), `ERRCODE` under what
is no command, and set valid bits but at a reset (R47, R49, R50). -/

namespace Sys2Proof.Machine

theorem issueCommand_sameOperands {w : Word} {s t : State} (h : issueCommand w s = .next t) : SameOperands s t := by
  rcases issueCommand_next w s t h with ⟨_, rfl⟩ | ⟨i, _, hexec⟩
  · exact ⟨rfl, rfl, rfl, rfl, rfl, rfl⟩
  · exact noCommandWritesOperands i s t hexec

theorem writeReg_config_pending (r : RegName) (v : Word) (s : State) :
    (writeReg r v s).config = s.config ∧ (writeReg r v s).pending = s.pending := by
  cases r <;> exact ⟨rfl, rfl⟩

/-- No event changes the parameters or the events after it. -/
theorem handle_config_pending {e : HostEvent} {s t : State} (h : handle e s = .next t) :
    t.config = s.config ∧ t.pending = s.pending := by
  rcases handle_next e s t h with ⟨w, _, hissue⟩ | ⟨_, r, v, rfl⟩ | ⟨_, r, rfl⟩ | ⟨a, d, _, _, rfl⟩ |
    ⟨_, m, rfl, _, _⟩
  · have hsame := issueCommand_sameOperands hissue
    exact ⟨hsame.config, hsame.pending⟩
  · exact writeReg_config_pending r v s
  · exact ⟨rfl, rfl⟩
  · exact ⟨rfl, rfl⟩
  · exact ⟨rfl, rfl⟩

/-- Settles O55: neither idling nor any event changes the parameters. -/
theorem parametersNeverChange : Obligations.ParametersNeverChange := by
  intro s t h
  rcases step_next h with ⟨_, rfl⟩ | ⟨e, rest, _, hhandle⟩
  · rfl
  · exact (handle_config_pending hhandle).1

/-! ### `STATUS` -/

theorem errCodeOf_statusAfterHostWrite (v st : Word) : errCodeOf (statusAfterHostWrite v st) = errCodeOf st := by
  unfold statusAfterHostWrite
  split
  · exact errCodeOf_clearErrSticky st
  · rfl

theorem errCodeOf_writeReg (r : RegName) (v : Word) (s : State) :
    errCodeOf (writeReg r v s).status = errCodeOf s.status := by
  cases r with
  | status => exact errCodeOf_statusAfterHostWrite v s.status
  | _ => rfl

/-- Settles O43: of the events that are no command and no reset only a register write reaches `STATUS`, and that keeps `ERRCODE`. -/
theorem hostAccessesLeaveErrCode : Obligations.HostAccessesLeaveErrCode := by
  intro s t e rest hpending hstep hreset hcommand
  rw [step_pending s e rest hpending] at hstep
  rcases handle_next e _ t hstep with ⟨w, he, _⟩ | ⟨_, r, v, rfl⟩ | ⟨_, r, rfl⟩ | ⟨a, d, _, _, rfl⟩ | ⟨hr, _⟩
  · exact absurd he (hcommand w)
  · exact errCodeOf_writeReg r v _
  · rfl
  · rfl
  · exact absurd hr (by simp [hreset])

/-- Every valid bit of `s` is set in `t` too. -/
structure ValidKept (s t : State) : Prop where
  res : resValidOf s.status = true → resValidOf t.status = true
  chunk : chunkValidOf s.status = true → chunkValidOf t.status = true

theorem validKept_of_status_eq {s t : State} (h : t.status = s.status) : ValidKept s t := ⟨by simp [h], by simp [h]⟩

theorem exec_validKept {i : Instr} {s t : State} (h : exec i s = .next t) : ValidKept s t := by
  cases exec_ends h with
  | range => exact ⟨by simp, by simp⟩
  | crc alg hi => exact ⟨by simp [crcDone], by simp [crcDone]⟩
  | chunkGood hi => exact ⟨by simp [chunkWritten], by simp [chunkWritten]⟩
  | chunkBad hi => exact ⟨by simp [chunkWritten], by simp [chunkWritten]⟩
  | stored d hd hlength hfits => exact ⟨by simp [stored], by simp [stored]⟩

theorem writeReg_validKept (r : RegName) (v : Word) (s : State) : ValidKept s (writeReg r v s) := by
  cases r with
  | status => exact ⟨by simp [writeReg], by simp [writeReg]⟩
  | _ => exact validKept_of_status_eq rfl

theorem handle_validKept {e : HostEvent} {s t : State} (h : handle e s = .next t) (hreset : e.isReset = false) :
    ValidKept s t := by
  rcases handle_next e s t h with ⟨w, _, hissue⟩ | ⟨_, r, v, rfl⟩ | ⟨_, r, rfl⟩ | ⟨a, d, _, _, rfl⟩ | ⟨hr, _⟩
  · rcases issueCommand_next w s t hissue with ⟨_, rfl⟩ | ⟨i, _, hexec⟩
    · exact ⟨by simp, by simp⟩
    · exact exec_validKept hexec
  · exact writeReg_validKept r v s
  · exact validKept_of_status_eq rfl
  · exact validKept_of_status_eq rfl
  · exact absurd hr (by simp [hreset])

/-- Settles O44: an idle step keeps the state, and every event but a reset keeps the set bits. -/
theorem onlyResetClearsValidBits : Obligations.OnlyResetClearsValidBits := by
  intro s t hstep hreset
  have hkept : ValidKept s t := by
    rcases step_next hstep with ⟨_, rfl⟩ | ⟨e, rest, hpending, hhandle⟩
    · exact validKept_of_status_eq rfl
    · obtain ⟨res, chunk⟩ := handle_validKept hhandle (hreset e rest hpending)
      exact ⟨res, chunk⟩
  exact ⟨hkept.res, hkept.chunk⟩

end Sys2Proof.Machine
end

section
/-! PROOFS. Which commands complete, and which are refused for a device in their range (20_memory.md R74, R80, log 8). -/

namespace Sys2Proof.Machine

open Sys2Proof.Statements

theorem crcCommand_eq_overRange (alg : CrcAlg) (s : State) :
    crcCommand alg s = overRange s.addr.toNat s.len.toNat s (.next (crcDone alg s)) := rfl

theorem storeCommand_eq_overRange (d : List Byte) (s : State) :
    storeCommand d s = overRange s.addr.toNat 4 s (.next (stored d s)) := rfl

/-- The verdict of a chunk check that has got past its range checks (41_chunk_store.md R171). -/
def chunkVerdict (s : State) : State :=
  if (chunkWritten s).result = (chunkWritten s).chunkCrc then succeed (chunkWritten s)
  else raise .crcMismatch (chunkWritten s)

theorem execChunkChk_eq_overRange (s : State) :
    execChunkChk s = overRange s.addr.toNat 8 s (overRange s.addr.toNat (12 + chunkL s) s (.next (chunkVerdict s))) := rfl

/-- A body that completes does so behind its checks, which raise `RANGE` or let it run, where no device is in the range. -/
theorem overRange_completes {a n : Nat} {s : State} {k : Host.Outcome State Fault Refusal}
    (hdevice : deviceInRange s.config a n = false) (hbody : ∃ t, k = .next t) : ∃ t, overRange a n s k = .next t := by
  by_cases hfits : a + n ≤ s.config.memSize
  · rwa [overRange_fits _ _ _ _ hfits hdevice]
  · exact ⟨_, overRange_over _ _ _ _ (not_le.mp hfits)⟩

/-- Settles O8: without devices every check is passed or raises `RANGE`. -/
theorem commandsAlwaysComplete : Obligations.CommandsAlwaysComplete := by
  intro i s hnone
  have hdevice : ∀ a n, deviceInRange s.config a n = false := fun a n => deviceInRange_of_none _ a n hnone
  rcases kind_cases i s.result with hi | rfl | ⟨d, hd⟩
  · obtain ⟨alg, hexec⟩ := exists_crcCommand_of_mem hi
    rw [hexec]
    exact overRange_completes (hdevice _ _) ⟨_, rfl⟩
  · exact overRange_completes (hdevice _ _) (overRange_completes (hdevice _ _) ⟨_, rfl⟩)
  · obtain ⟨hexec, _⟩ := exec_eq_storeCommand hd
    rw [hexec]
    exact overRange_completes (hdevice _ _) ⟨_, rfl⟩

theorem overRange_refused {a n : Nat} {s : State} (k : Host.Outcome State Fault Refusal)
    (hfits : a + n ≤ s.config.memSize) (hdevice : ¬ NoDevice s.config a n) :
    overRange a n s k = .refused .readSensitiveDevice :=
  overRange_device a n s k hfits (eq_true_of_ne_false hdevice)

/-- Settles O38: a chunk check whose chunk holds a device is refused at its header or, with a header free of devices, at the second
check. -/
theorem deviceRangesAreRefused : Obligations.DeviceRangesAreRefused := by
  refine fun s => ⟨fun i hi hfits hdevice => ?_, fun i hi hfits hdevice => ?_, overRange_refused _,
    fun hfits hdevice => ?_⟩
  · obtain ⟨alg, hexec⟩ := exists_crcCommand_of_mem hi
    exact (hexec s).trans (overRange_refused _ hfits hdevice)
  · obtain ⟨d, hd⟩ := Option.isSome_iff_exists.mp ((isSome_storedBytes_iff i s.result).mpr hi)
    obtain ⟨hexec, _⟩ := exec_eq_storeCommand hd
    exact hexec.trans (overRange_refused _ hfits hdevice)
  · have hchunk : s.addr.toNat + (12 + chunkL s) ≤ s.config.memSize := by omega
    by_cases hheader : NoDevice s.config s.addr.toNat 8
    · exact (overRange_fits _ _ _ _ (by omega) hheader).trans (overRange_refused _ hchunk hdevice)
    · exact overRange_refused _ (by omega) hheader

end Sys2Proof.Machine
end

section
/-! PROOFS. What a command does not read: two states that differ in such a field take the same course (10_state.md R53,
30_encoding.md R106). -/

namespace Sys2Proof.Machine

open Sys2Proof.Statements

/-! ### Two outcomes side by side -/

/-- Where the first outcome goes on, the second goes on to a state related to it. -/
def Simulates (R : State → State → Prop) (o o' : Host.Outcome State Fault Refusal) : Prop :=
  ∀ t, o = .next t → ∃ u, o' = .next u ∧ R t u

theorem simulates_next {R : State → State → Prop} {t u : State} (h : R t u) : Simulates R (.next t) (.next u) := by
  rintro _ ⟨⟩
  exact ⟨u, rfl, h⟩

/-- A range check has the same outcome under the same parameters, so related bodies give related commands. -/
theorem overRange_simulates {R : State → State → Prop} {a n : Nat} {s s' : State}
    {k k' : Host.Outcome State Fault Refusal} (hconfig : s'.config = s.config)
    (hrange : R (raise .range s) (raise .range s')) (hbody : Simulates R k k') :
    Simulates R (overRange a n s k) (overRange a n s' k') := by
  intro t h
  rcases overRange_next _ _ _ _ _ h with ⟨hover, rfl⟩ | ⟨hfits, hdevice, hk⟩
  · exact ⟨_, overRange_over _ _ _ _ (hconfig ▸ hover), hrange⟩
  · rw [overRange_fits _ _ _ _ (hconfig ▸ hfits) (hconfig ▸ hdevice)]
    exact hbody t hk

/-- The parts of the state that every command may read. -/
structure SameInputs (s s' : State) : Prop where
  addr : s'.addr = s.addr
  mem : s'.mem = s.mem
  config : s'.config = s.config

section Simulation

variable {R : State → State → Prop} {s s' : State}

theorem crcCommand_simulates (alg : CrcAlg) (hin : SameInputs s s') (hlen : s'.len = s.len)
    (hrange : R (raise .range s) (raise .range s')) (hdone : R (crcDone alg s) (crcDone alg s')) :
    Simulates R (crcCommand alg s) (crcCommand alg s') := by
  rw [crcCommand_eq_overRange, crcCommand_eq_overRange, hin.addr, hlen]
  exact overRange_simulates hin.config hrange (simulates_next hdone)

theorem storeCommand_simulates (d : List Byte) (hin : SameInputs s s')
    (hrange : R (raise .range s) (raise .range s')) (hdone : R (stored d s) (stored d s')) :
    Simulates R (storeCommand d s) (storeCommand d s') := by
  rw [storeCommand_eq_overRange, storeCommand_eq_overRange, hin.addr]
  exact overRange_simulates hin.config hrange (simulates_next hdone)

/-- Two chunk checks over the same memory come to the same verdict. -/
theorem execChunkChk_simulates (hin : SameInputs s s') (hrange : R (raise .range s) (raise .range s'))
    (hgood : R (succeed (chunkWritten s)) (succeed (chunkWritten s')))
    (hbad : R (raise .crcMismatch (chunkWritten s)) (raise .crcMismatch (chunkWritten s'))) :
    Simulates R (execChunkChk s) (execChunkChk s') := by
  have hlength : chunkL s' = chunkL s := by simp only [chunkL, hin.addr, hin.mem]
  have hverdict : R (chunkVerdict s) (chunkVerdict s') := by
    have hresult : (chunkWritten s').result = (chunkWritten s).result := by simp [chunkWritten, hin.addr, hin.mem]
    have hcrc : (chunkWritten s').chunkCrc = (chunkWritten s).chunkCrc := by simp [chunkWritten, hin.addr, hin.mem]
    rw [chunkVerdict, chunkVerdict, hresult, hcrc]
    split
    · exact hgood
    · exact hbad
  rw [execChunkChk_eq_overRange, execChunkChk_eq_overRange, hlength, hin.addr]
  exact overRange_simulates hin.config hrange (overRange_simulates hin.config hrange (simulates_next hverdict))

/-- The same way to end from two states, for each way the command `i` has: what makes two runs of it related. -/
structure RelatedEnds (R : State → State → Prop) (i : Instr) (s s' : State) : Prop where
  range : R (raise .range s) (raise .range s')
  crc : i ∈ crcFamily → s'.len = s.len ∧ ∀ alg, R (crcDone alg s) (crcDone alg s')
  chunkGood : R (succeed (chunkWritten s)) (succeed (chunkWritten s'))
  chunkBad : R (raise .crcMismatch (chunkWritten s)) (raise .crcMismatch (chunkWritten s'))
  stored : ∀ d, storedBytes i s.result = some d → storedBytes i s'.result = some d ∧ R (stored d s) (stored d s')

theorem exec_simulates {i : Instr} (hends : RelatedEnds R i s s') (hin : SameInputs s s') :
    Simulates R (exec i s) (exec i s') := by
  rcases kind_cases i s.result with hi | rfl | ⟨d, hd⟩
  · obtain ⟨alg, hexec⟩ := exists_crcCommand_of_mem hi
    obtain ⟨hlen, hdone⟩ := hends.crc hi
    rw [hexec, hexec]
    exact crcCommand_simulates alg hin hlen hends.range (hdone alg)
  · exact execChunkChk_simulates hin hends.range hends.chunkGood hends.chunkBad
  · obtain ⟨hd', hstored⟩ := hends.stored d hd
    obtain ⟨hexec, _⟩ := exec_eq_storeCommand hd
    obtain ⟨hexec', _⟩ := exec_eq_storeCommand hd'
    rw [hexec, hexec']
    exact storeCommand_simulates d hin hends.range hstored

end Simulation

/-! ### The statements -/

/-- The two states differ in `STATUS` alone, and there not in `ERRCODE`. -/
def AgreeButStatus (t u : State) : Prop :=
  { u with status := t.status } = t ∧ errCodeOf u.status = errCodeOf t.status

/-- Settles O36: the same way to end from two values of `STATUS` writes the same code and the same rest. -/
theorem commandsDoNotReadStatus : Obligations.CommandsDoNotReadStatus := by
  intro i s t st h
  have hends : RelatedEnds AgreeButStatus i s { s with status := st } :=
    { range := ⟨rfl, by simp⟩
      crc := fun _ => ⟨rfl, fun alg => ⟨rfl, by simp [crcDone]⟩⟩
      chunkGood := ⟨rfl, by simp⟩
      chunkBad := ⟨rfl, by simp⟩
      stored := fun d hd => ⟨hd, rfl, by simp [stored]⟩ }
  exact exec_simulates hends ⟨rfl, rfl, rfl⟩ t h

theorem exec_with_seed_len {i : Instr} {s t : State} (x y : Word) (hi : i ∉ crcFamily) (h : exec i s = .next t) :
    exec i { s with seed := x, len := y } = .next { t with seed := x, len := y } := by
  have hends : RelatedEnds (fun t u => u = { t with seed := x, len := y }) i s { s with seed := x, len := y } :=
    { range := rfl
      crc := fun hcrc => absurd hcrc hi
      chunkGood := rfl
      chunkBad := rfl
      stored := fun d hd => ⟨hd, rfl⟩ }
  obtain ⟨_, hexec, rfl⟩ := exec_simulates hends ⟨rfl, rfl, rfl⟩ t h
  exact hexec

theorem exec_crc_with_result_chunk {i : Instr} {s t : State} (x y : Word) (hi : i ∈ crcFamily)
    (hcode : errCodeOf t.status = 0#4) (h : exec i s = .next t) :
    exec i (otherChunk x y { s with result := x }) = .next (otherChunk x y t) := by
  obtain ⟨alg, hexec⟩ := exists_crcCommand_of_mem hi
  rw [hexec] at h ⊢
  rcases crcCommand_next alg s t h with ⟨_, rfl⟩ | ⟨hfits, hdevice, rfl⟩
  · exact absurd hcode (by simp [ErrCode.code])
  · exact overRange_fits _ _ _ _ hfits hdevice

theorem exec_chunkChk_with_result_chunk {s t : State} (x y : Word) (hcode : errCodeOf t.status ≠ 2#4)
    (h : exec .chunkChk s = .next t) : exec .chunkChk (otherChunk x y { s with result := x }) = .next t := by
  have hsim := execChunkChk_simulates (R := fun t u => errCodeOf t.status ≠ 2#4 → u = t)
    (s := s) (s' := otherChunk x y { s with result := x }) ⟨rfl, rfl, rfl⟩
    (fun hne => absurd (errCodeOf_raise .range s) hne) (fun _ => rfl) (fun _ => rfl)
  obtain ⟨u, hexec, hsame⟩ := hsim t h
  exact hsame hcode ▸ hexec

theorem exec_store_with_chunk {i : Instr} {s t : State} (x y : Word) (hi : i = .storeBe ∨ i = .storeLe)
    (h : exec i s = .next t) : exec i (otherChunk x y s) = .next (otherChunk x y t) := by
  obtain ⟨d, hd⟩ := Option.isSome_iff_exists.mp ((isSome_storedBytes_iff i s.result).mpr hi)
  obtain ⟨hexec, _⟩ := exec_eq_storeCommand hd
  obtain ⟨hexec', _⟩ := exec_eq_storeCommand (s := otherChunk x y s) hd
  have hsim := storeCommand_simulates (R := fun t u => u = otherChunk x y t) (s := s) (s' := otherChunk x y s) d
    ⟨rfl, rfl, rfl⟩ rfl rfl
  obtain ⟨_, hstore, rfl⟩ := hsim t (hexec ▸ h)
  exact hexec'.trans hstore

/-- Settles O37: for each kind of command, the ways it can end do not speak of the registers it does not read. -/
theorem unreadRegistersDoNotMatter : Obligations.UnreadRegistersDoNotMatter := fun _ x y =>
  ⟨fun _ _ => exec_with_seed_len x y, fun _ _ => exec_crc_with_result_chunk x y,
    fun _ => exec_chunkChk_with_result_chunk x y, fun _ _ => exec_store_with_chunk x y⟩

end Sys2Proof.Machine
end

section
/-! PROOFS. CRC commands in sequence: repeated, chained over the pieces of a buffer, and straight after reset (40_crc.md R140, R155,
70_reset_and_hazards.md R236). -/

namespace Sys2Proof.Machine

open Sys2Proof.Statements

theorem crcCommandRule_of_mem {i : Instr} (hi : i ∈ crcFamily) : CrcCommandRule (encode i) i := by
  obtain ⟨alg, hexec⟩ := exists_crcCommand_of_mem hi
  exact crcCommandRule_of_exec hexec

/-- What 40_crc.md R149 says a CRC command leaves, for the range of `n` bytes from `a` upward. -/
def crcCompleted (a n : Nat) (s : State) : State :=
  { s with
    result := crc32 (s.mem.readBytes a n) s.seed
    status := okStatus s.status 0x00010000#32 }

/-- A CRC command over a range given as natural numbers (40_crc.md R149). -/
theorem exec_crc_of_fits {i : Instr} {s : State} {a n : Nat} (hi : i ∈ crcFamily) (ha : s.addr.toNat = a)
    (hn : s.len.toNat = n) (hfits : a + n ≤ s.config.memSize) (hdevice : NoDevice s.config a n) :
    exec i s = .next (crcCompleted a n s) := by
  subst ha hn
  obtain ⟨_, hrule⟩ := crcCommandRule_of_mem hi
  obtain ⟨hdone, _⟩ := hrule s
  exact hdone hfits hdevice

theorem exec_crc_of_over {i : Instr} {s : State} (hi : i ∈ crcFamily)
    (hover : s.config.memSize < s.addr.toNat + s.len.toNat) : exec i s = .next (raised 2#32 s) := by
  obtain ⟨_, hrule⟩ := crcCommandRule_of_mem hi
  obtain ⟨_, hrange⟩ := hrule s
  exact hrange hover

/-! ### Repeated -/

/-- A status that a command has left is the one the same command leaves again. -/
theorem okStatus_okStatus (st set : Word) : okStatus (okStatus st set) set = okStatus st set := by
  apply BitVec.eq_of_getLsbD_eq
  intro i _
  simp only [okStatus, BitVec.getLsbD_or, BitVec.getLsbD_and]
  cases st.getLsbD i <;> cases set.getLsbD i <;> simp

theorem crcCompleted_crcCompleted (a n : Nat) (s : State) :
    crcCompleted a n (crcCompleted a n s) = crcCompleted a n s := by
  simp only [crcCompleted, okStatus_okStatus]

theorem raised_eq_okStatus (code : Word) (s : State) :
    raised code s = { s with status := okStatus s.status (0x00000100#32 ||| code) } := by
  rw [raised, okStatus, BitVec.or_assoc]

theorem raised_raised (code : Word) (s : State) : raised code (raised code s) = raised code s := by
  simp only [raised_eq_okStatus, okStatus_okStatus]

/-- Settles O24: the second command finds the operands and the bytes of the first, and so the range that fitted or did not. -/
theorem repeatedCrcCommandIsStable : Obligations.RepeatedCrcCommandIsStable := by
  intro i s hi hrange
  by_cases hfits : s.addr.toNat + s.len.toNat ≤ s.config.memSize
  · have hdevice : NoDevice s.config s.addr.toNat s.len.toNat := hrange.resolve_left (not_lt.mpr hfits)
    let t : State := crcCompleted s.addr.toNat s.len.toNat s
    have hagain : exec i t = .next (crcCompleted s.addr.toNat s.len.toNat t) :=
      exec_crc_of_fits hi rfl rfl hfits hdevice
    exact ⟨t, exec_crc_of_fits hi rfl rfl hfits hdevice, hagain.trans (congrArg _ (crcCompleted_crcCompleted _ _ s))⟩
  · have hover := not_le.mp hfits
    have hagain : exec i (raised 2#32 s) = .next (raised 2#32 (raised 2#32 s)) := exec_crc_of_over hi hover
    exact ⟨_, exec_crc_of_over hi hover, hagain.trans (congrArg _ (raised_raised 2#32 s))⟩

/-! ### Chained -/

theorem memSize_le {c : Config} (h : c.wf = true) : c.memSize ≤ 2 ^ 32 := by
  simp only [Config.wf, Config.memSizeOk, Bool.and_eq_true, decide_eq_true_eq] at h
  obtain ⟨⟨_, hsize⟩, _⟩ := h
  exact hsize

theorem toNat_ofNat_of_lt {n : Nat} (h : n < 2 ^ 32) : (BitVec.ofNat 32 n).toNat = n :=
  (BitVec.toNat_ofNat n 32).trans (Nat.mod_eq_of_lt h)

/-- A range that fits can be addressed by a register: only an empty one can start at 2^32, and it may start anywhere. -/
theorem range_at_register {c : Config} (m : Memory) {a n : Nat} (hwf : c.wf = true) (hfits : a + n ≤ c.memSize)
    (hdevice : NoDevice c a n) :
    (BitVec.ofNat 32 a).toNat + n ≤ c.memSize ∧ NoDevice c (BitVec.ofNat 32 a).toNat n ∧
      m.readBytes (BitVec.ofNat 32 a).toNat n = m.readBytes a n := by
  have hsize := memSize_le hwf
  cases n with
  | zero =>
    have hle : (BitVec.ofNat 32 a).toNat ≤ a := (BitVec.toNat_ofNat a 32).trans_le (Nat.mod_le _ _)
    exact ⟨by omega, deviceInRange_zero _ _, rfl⟩
  | succ n =>
    rw [toNat_ofNat_of_lt (by omega)]
    exact ⟨hfits, hdevice, rfl⟩

/-- Settles O23: each command computes the same `Crc32`, which chains. -/
theorem chainedCommandsMatchWhole : Obligations.ChainedCommandsMatchWhole := by
  intro s n k i j l hi hj hl hwf hlt hfits hdevice
  have hfits₁ : s.addr.toNat + n ≤ s.config.memSize := by omega
  have hwhole : s.addr.toNat + (n + k) ≤ s.config.memSize := by omega
  have hdevice₁ : NoDevice s.config s.addr.toNat n := deviceInRange_mono _ hdevice (by omega) (by omega)
  have hdevice₂ : NoDevice s.config (s.addr.toNat + n) k := deviceInRange_mono _ hdevice (by omega) (by omega)
  obtain ⟨hfits₂, hdevice₂, hbytes⟩ := range_at_register s.mem hwf hfits hdevice₂
  refine ⟨_, _, _, exec_crc_of_fits hi rfl (toNat_ofNat_of_lt (by omega)) hfits₁ hdevice₁,
    exec_crc_of_fits hj rfl (toNat_ofNat_of_lt (by omega)) hfits₂ hdevice₂,
    exec_crc_of_fits hl rfl (toNat_ofNat_of_lt hlt) hwhole hdevice, ?_⟩
  show crc32 (s.mem.readBytes _ k) (crc32 (s.mem.readBytes s.addr.toNat n) s.seed) =
    crc32 (s.mem.readBytes s.addr.toNat (n + k)) s.seed
  rw [hbytes, readBytes_add, crc32_append]

end Sys2Proof.Machine
end

section
/-! PROOFS. What a store wrote is read back, by the byte order it was written in (00_scope.md R20), and so by a chunk check
(41_chunk_store.md R182). -/

namespace Sys2Proof.Machine

open Sys2Proof.Statements

/-! ### The four bytes of a word in memory -/

/-- The bytes of a word in the other order are the other byte order's. -/
theorem be32_extractLsb' (x : Word) :
    be32 (x.extractLsb' 24 8) (x.extractLsb' 16 8) (x.extractLsb' 8 8) (x.extractLsb' 0 8) = x :=
  le32_extractLsb' x

theorem read_of_readBytes_four {m : Memory} {p : Nat} {b0 b1 b2 b3 : Byte} (h : m.readBytes p 4 = [b0, b1, b2, b3]) :
    m.read p = b0 ∧ m.read (p + 1) = b1 ∧ m.read (p + 2) = b2 ∧ m.read (p + 3) = b3 := by
  simpa using h

theorem readBe32_of_readBytes {m : Memory} {p : Nat} {v : Word} (h : m.readBytes p 4 = bytesBe v) :
    m.readBe32 p = v := by
  obtain ⟨h0, h1, h2, h3⟩ := read_of_readBytes_four h
  rw [Memory.readBe32, h0, h1, h2, h3, be32_extractLsb']

theorem readBe32_congr {m m' : Memory} {p : Nat} (h : ∀ x, p ≤ x → x < p + 4 → m'.read x = m.read x) :
    m'.readBe32 p = m.readBe32 p :=
  readBe32_of_readBytes ((readBytes_congr m m' p 4 h).trans (bytesBe_readBe32 m p).symm)

/-- `STORE.BE` at an address given as a natural number (41_chunk_store.md R180). -/
theorem exec_storeBe_of_fits {s : State} {a : Nat} (ha : s.addr.toNat = a) (hfits : a + 4 ≤ s.config.memSize)
    (hdevice : NoDevice s.config a 4) :
    ∃ m : Memory, exec .storeBe s = .next { s with mem := m, status := okStatus s.status 0#32 } ∧
      m.readBe32 a = s.result ∧ ∀ x : Nat, x < a ∨ a + 4 ≤ x → m.read x = s.mem.read x := by
  subst ha
  obtain ⟨_, hrule⟩ := storeBigEndian
  obtain ⟨hdone, _⟩ := hrule s
  obtain ⟨m, hexec, hbytes, hframe⟩ := hdone hfits hdevice
  exact ⟨m, hexec, readBe32_of_readBytes hbytes, hframe⟩

/-- Settles O30, for each store by its rule. -/
theorem storedResultReadsBack : Obligations.StoredResultReadsBack := by
  intro s hfits hdevice
  constructor
  · obtain ⟨m, hexec, hword, _⟩ := exec_storeBe_of_fits rfl hfits hdevice
    exact ⟨_, hexec, hword⟩
  · obtain ⟨_, hrule⟩ := storeLittleEndian
    obtain ⟨hdone, _⟩ := hrule s
    obtain ⟨m, hexec, hbytes, _⟩ := hdone hfits hdevice
    obtain ⟨h0, h1, h2, h3⟩ := read_of_readBytes_four hbytes
    refine ⟨_, hexec, ?_⟩
    show le32 (m.read _) (m.read _) (m.read _) (m.read _) = s.result
    rw [h0, h1, h2, h3, le32_extractLsb']

/-! ### A chunk built in place -/

/-- A memory that differs from a chunk's at most in its CRC field, where it holds the chunk's CRC, passes the check. -/
theorem chunk_of_stored_crc {s u : State} (haddr : u.addr = s.addr) (hconfig : u.config = s.config)
    (hfits : ChunkFits s) (hcrc : u.mem.readBe32 (s.addr.toNat + 8 + chunkL s) = chunkCrcOf s)
    (hframe : ∀ x, x < s.addr.toNat + 8 + chunkL s → u.mem.read x = s.mem.read x) :
    ChunkFits u ∧ chunkCrcOf u = chunkCrcOf s ∧ wordAt u (u.addr.toNat + 8 + chunkL u) = chunkCrcOf s := by
  have hlength : chunkL u = chunkL s := by
    have hword : u.mem.readBe32 s.addr.toNat = s.mem.readBe32 s.addr.toNat :=
      readBe32_congr fun x _ hx => hframe x (by omega)
    rw [← haddr] at hword
    exact congrArg BitVec.toNat (hword.trans (by rw [haddr]; rfl))
  have hcovered : u.mem.readBytes (s.addr.toNat + 4) (4 + chunkL s) = s.mem.readBytes (s.addr.toNat + 4) (4 + chunkL s) :=
    readBytes_congr _ _ _ _ fun x _ hx => hframe x (by omega)
  rw [ChunkFits, chunkCrcOf, hlength, haddr, hconfig, hcovered]
  exact ⟨hfits, rfl, hcrc⟩

/-- A chunk whose check succeeds ends with `ERRCODE` 0. -/
theorem errCodeOf_chunkRegs_okStatus (s : State) :
    errCodeOf (chunkRegs s (okStatus s.status 0x00030000#32)).status = 0#4 := by
  rw [← succeed_chunkWritten]
  exact errCodeOf_succeed _

/-- Settles O27: the store puts the computed CRC where the check looks for it, and leaves what the check covers. -/
theorem builtChunkPassesCheck : Obligations.BuiltChunkPassesCheck := by
  intro s i hi hwf hchunk
  obtain ⟨hfits, hdevice⟩ := hchunk
  have hsize := memSize_le hwf
  have hcovered : s.addr.toNat + 4 + (4 + chunkL s) ≤ s.config.memSize := by omega
  have hfield : s.addr.toNat + 8 + chunkL s + 4 ≤ s.config.memSize := by omega
  let s₀ : State := { s with
    seed := 0#32, addr := BitVec.ofNat 32 (s.addr.toNat + 4), len := BitVec.ofNat 32 (4 + chunkL s) }
  let t : State := crcCompleted (s.addr.toNat + 4) (4 + chunkL s) s₀
  have hcrc : exec i s₀ = .next t := exec_crc_of_fits hi (toNat_ofNat_of_lt (by omega)) (toNat_ofNat_of_lt (by omega))
    hcovered (deviceInRange_mono _ hdevice (by omega) (by omega))
  obtain ⟨m, hstore, hword, hframe⟩ := exec_storeBe_of_fits
    (s := { t with addr := BitVec.ofNat 32 (s.addr.toNat + 8 + chunkL s) }) (toNat_ofNat_of_lt (by omega)) hfield
    (deviceInRange_mono _ hdevice (by omega) (by omega))
  obtain ⟨hfits', hcomputed, hstored⟩ := chunk_of_stored_crc (s := s)
    (u := { t with mem := m, status := okStatus t.status 0#32, addr := s.addr }) rfl rfl ⟨hfits, hdevice⟩ hword
    fun x hx => hframe x (.inl hx)
  have hmatch := hcomputed.trans hstored.symm
  exact ⟨t, _, _, hcrc, hstore, exec_chunkChk_of_match hfits' hmatch, errCodeOf_chunkRegs_okStatus _, hmatch, hstored⟩

/-! ### Straight after reset -/

theorem exec_crc_zeroed {i : Instr} (hi : i ∈ crcFamily) (s : State) :
    exec i (zeroed s) = .next { zeroed s with status := 0x00010000#32 } := by
  have hresult : crc32 ((zeroed s).mem.readBytes 0 0) (zeroed s).seed = 0#32 := emptyInputReturnsSeed 0#32
  have hstatus : okStatus (zeroed s).status 0x00010000#32 = 0x00010000#32 :=
    (by decide : okStatus 0#32 0x00010000#32 = 0x00010000#32)
  rw [exec_crc_of_fits (a := 0) (n := 0) hi rfl rfl (Nat.zero_le _) (deviceInRange_zero _ _), crcCompleted, hresult,
    hstatus]
  rfl

/-- Settles O52: the empty range fits everywhere and has the CRC of its seed, and the bytes of `RESULT` 0 are zeros. -/
theorem commandsStraightAfterReset : Obligations.CommandsStraightAfterReset := by
  refine fun s => ⟨fun i hi => exec_crc_zeroed hi s, fun hfits hdevice => ?_⟩
  obtain ⟨_, hrule⟩ := storeBigEndian
  obtain ⟨hdone, _⟩ := hrule (zeroed s)
  obtain ⟨m, hexec, hbytes, hframe⟩ := hdone ((Nat.zero_add 4).trans_le hfits) hdevice
  have hstatus : okStatus (zeroed s).status 0#32 = 0#32 := (by decide : okStatus 0#32 0#32 = 0#32)
  have hzeros : bytesBe 0#32 = [0#8, 0#8, 0#8, 0#8] := by decide
  rw [hstatus] at hexec
  exact ⟨m, hexec, hbytes.trans hzeros, fun x hx => hframe x (.inr ((Nat.zero_add 4).trans_le hx))⟩

end Sys2Proof.Machine
end

section
/-! PROOFS. The register map (10_state.md R36) as a list, and the host's reads and writes of a word at each offset (R37 to R40, R46, R48,
R51). -/

namespace Sys2Proof.Machine

/-- The registers in the order of the window, one word each (10_state.md R36). -/
def registers : List RegName :=
  [.cmd, .status, .seed, .addr, .len, .result, .chunkLen, .chunkType, .chunkCrc, .chunkNext]

/-- Behind the last register every offset is reserved (10_state.md R51). -/
theorem regAt_of_reserved {offset : Nat} (h : 40 ≤ offset) : regAt offset = none := by
  unfold regAt
  split
  case h_11 => rfl
  all_goals omega

/-- The window maps its words to the registers in order (10_state.md R36). -/
theorem regAt_word (k : Nat) : regAt (4 * k) = registers[k]? := by
  by_cases hk : k < 10
  · interval_cases k <;> rfl
  · rw [regAt_of_reserved (by omega), List.getElem?_eq_none (not_lt.mp hk)]

/-! ### Reads -/

theorem readOffset_word (s : State) (k : Nat) :
    readOffset (4 * k) s = (registers.map (readReg · s)).getD k 0x00000000#32 := by
  rw [readOffset, regAt_word, List.getD_eq_getElem?_getD, List.getElem?_map]
  cases registers[k]? with
  | none => rfl
  | some r => rfl

/-- Settles O39: the access is a word inside the window, and the map is that of `registers`. -/
theorem registerReadsFollowTheMap : Obligations.RegisterReadsFollowTheMap := by
  intro s k rest hk
  let u : State := { s with pending := rest }
  calc step { s with pending := .regRead (s.config.regBase + 4 * k) .word :: rest }
      _ = hostRegRead (u.config.regBase + 4 * k) .word u := step_event s _ rest
      _ = .next { u with replies := .word (readOffset (4 * k) u) :: u.replies } :=
        overWindow_of_aligned u _ (by omega) (by omega)
      _ = .next { u with replies := .word ((registers.map (readReg · u)).getD k 0#32) :: u.replies } := by
        rw [readOffset_word]

theorem readReg_reset (r : RegName) : readReg r State.reset = 0x00000000#32 := by
  cases r <;> rfl

/-- Settles O49: every register reads 0, and so does what is no register. -/
theorem resetRegistersAreZero : Obligations.ResetRegistersAreZero := by
  refine ⟨rfl, fun k => ?_⟩
  rw [readOffset]
  split
  · exact readReg_reset _
  · rfl

/-! ### Writes -/

/-- What a host write of `v` to the word `k` of the window makes of the registers, for every word but `CMD`. -/
def wordWritten (k : Nat) (v : Word) (s : State) : State :=
  { s with
    status := if k = 1 ∧ v.getLsbD 8 = true then s.status &&& 0xFFFFFEFF#32 else s.status
    seed := if k = 2 then v else s.seed
    addr := if k = 3 then v else s.addr
    len := if k = 4 then v else s.len }

/-- `STATUS` is the one register of the window that does not simply take the value or ignore it (10_state.md R48). -/
theorem writeOffset_status (v : Word) (s : State) : writeOffset (4 * 1) v s = .next (wordWritten 1 v s) := by
  simp [writeOffset, regAt, writeReg, wordWritten, statusAfterHostWrite, clearErrSticky]

theorem writeOffset_word (v : Word) (s : State) {k : Nat} (hk : 0 < k) :
    writeOffset (4 * k) v s = .next (wordWritten k v s) := by
  obtain rfl | hstatus : k = 1 ∨ 2 ≤ k := by omega
  · exact writeOffset_status v s
  by_cases hreg : k < 10
  · interval_cases k <;> rfl
  · rw [writeOffset, regAt_of_reserved (by omega), wordWritten, if_neg (by omega), if_neg (by omega),
      if_neg (by omega), if_neg (by omega)]

/-- Settles O40: the access is a word inside the window at no offset of `CMD`. -/
theorem registerWritesFollowTheMap : Obligations.RegisterWritesFollowTheMap := by
  intro s v k rest hpos hk
  let u : State := { s with pending := rest }
  calc step { s with pending := .regWrite (s.config.regBase + 4 * k) .word v :: rest }
      _ = hostRegWrite (u.config.regBase + 4 * k) .word v u := step_event s _ rest
      _ = writeOffset (4 * k) v u := overWindow_of_aligned u _ (by omega) (by omega)
      _ = .next (wordWritten k v u) := writeOffset_word v u hpos

end Sys2Proof.Machine
end

section
/-! PROOFS. The host's accesses to data memory (20_memory.md R70, R80, R83), alone and as the events before a command. -/

namespace Sys2Proof.Machine

open Sys2Proof.Statements

theorem overData_of_fits {a n : Nat} {s : State} (k : Host.Outcome State Fault Refusal)
    (hfits : a + n ≤ s.config.memSize) (hdevice : NoDevice s.config a n) : overData a n s k = k := by
  rw [overData, if_pos ((inRange_iff _ _ _).mpr hfits), if_neg (Bool.eq_false_iff.mp hdevice)]

theorem overData_of_over {a n : Nat} {s : State} (k : Host.Outcome State Fault Refusal)
    (hover : s.config.memSize < a + n) : overData a n s k = .fault .noSuchDataAddress := by
  rw [overData, if_neg (fun h => not_le.mpr hover ((inRange_iff _ _ _).mp h))]

/-- The bytes of a range, lowest address first, as a list over its offsets (20_memory.md R78). -/
theorem readBytes_eq_map (m : Memory) (a n : Nat) :
    m.readBytes a n = (List.range n).map (fun k => m.read (a + k)) := by
  apply List.ext_getElem (by simp)
  intro k hk _
  rw [readBytes_getElem, List.getElem_map, List.getElem_range]

/-- Settles O46: the access is handled behind its check, which it passes in the first case and fails in the others. -/
theorem hostDataAccessStaysInMemory : Obligations.HostDataAccessStaysInMemory := by
  refine fun s a n d rest => ⟨fun hfits hdevice => ?_, fun hover => ?_, fun hover => ?_⟩
  · rw [step_event, ← readBytes_eq_map]
    exact overData_of_fits _ hfits hdevice
  · exact (step_event s _ rest).trans (overData_of_over _ hover)
  · exact (step_event s _ rest).trans (overData_of_over _ hover)

/-! ### Steps before a command -/

/-- The step that takes a host write that fits. -/
theorem step_dataWrite {s : State} {a : Nat} {d : List Byte} {rest : List HostEvent}
    (hpending : s.pending = .dataWrite a d :: rest) (hfits : a + d.length ≤ s.config.memSize)
    (hdevice : NoDevice s.config a d.length) :
    step s = .next { s with pending := rest, mem := s.mem.writeBytes a d } :=
  (step_pending s _ rest hpending).trans (overData_of_fits _ hfits hdevice)

/-- The step that takes a write to `CMD`. -/
theorem step_commandWrite {s : State} {w : Word} {rest : List HostEvent}
    (hpending : s.pending = .regWrite s.config.regBase .word w :: rest) :
    step s = issueCommand w { s with pending := rest } := by
  have hs : s = withCommand w rest s := by rw [withCommand, ← hpending]
  rw [hs]
  exact step_withCommand w rest s

/-- Settles O45: the command reads back the bytes the first step wrote. -/
theorem commandSeesEarlierHostWrite : Obligations.CommandSeesEarlierHostWrite := by
  intro s d i rest hi hlen hfits hdevice hpending
  let m : Memory := s.mem.writeBytes s.addr.toNat d
  let t : State := { s with pending := .regWrite s.config.regBase .word (encode i) :: rest, mem := m }
  let u : State := crcCompleted s.addr.toNat d.length { s with pending := rest, mem := m }
  have hcommand : step t = .next u := by
    calc step t
        _ = issueCommand (encode i) { t with pending := rest } := step_commandWrite rfl
        _ = exec i { t with pending := rest } := issueCommand_of_decode (decode_encode i) _
        _ = .next u := exec_crc_of_fits hi rfl hlen hfits hdevice
  have hresult : u.result = crc32 d s.seed := congrArg (crc32 · s.seed) (readBytes_writeBytes s.mem s.addr.toNat d)
  exact ⟨t, u, step_dataWrite hpending hfits hdevice, hcommand, hresult, rfl⟩

/-! ### Runs -/

section Runs

variable {M : Host.Core} {s t : M.State} {k : Nat}

theorem run_succ_of_step (h : M.step s = .next t) : M.run (k + 1) s = M.run k t := by
  rw [Host.Core.run, h]

theorem step_next_of_run (h : M.run (k + 1) s = .next t) : ∃ u, M.step s = .next u ∧ M.run k u = .next t := by
  rw [Host.Core.run] at h
  split at h
  next u hstep => exact ⟨u, hstep, h⟩
  next => cases h
  next => cases h

theorem run_one (s : M.State) : M.run 1 s = M.step s := by
  rw [Host.Core.run]
  cases M.step s <;> rfl

end Runs

/-- The step of the machine the host reads is `step`. -/
theorem run_core_of_step {s t : State} {k : Nat} (h : step s = .next t) :
    Host.Core.run core (k + 1) s = Host.Core.run core k t :=
  run_succ_of_step (M := core) (s := s) (t := t) h

theorem step_next_of_run_core {s t : State} {k : Nat} (h : Host.Core.run core (k + 1) s = .next t) :
    ∃ u : State, step s = .next u ∧ Host.Core.run core k u = .next t :=
  step_next_of_run (M := core) (s := s) (t := t) h

/-- The run over single-byte writes and then a write to `CMD` is the command on the memory so written. -/
theorem run_writes_command (s : State) (draw : List (Nat × Byte)) (w : Word)
    (hdraw : ∀ c ∈ draw, c.1 < s.config.memSize ∧ NoDevice s.config c.1 1) :
    Host.Core.run core (draw.length + 1)
        { s with pending := draw.map (fun c => .dataWrite c.1 [c.2]) ++ [.regWrite s.config.regBase .word w] } =
      issueCommand w { s with pending := [], mem := draw.foldl (fun m c => m.write c.1 c.2) s.mem } := by
  induction draw generalizing s with
  | nil =>
    have hcommand : step { s with pending := [.regWrite s.config.regBase .word w] } =
        issueCommand w { s with pending := [] } := step_withCommand w [] s
    exact (run_one (M := core) _).trans hcommand
  | cons c draw ih =>
    obtain ⟨hlt, hdevice⟩ := hdraw c List.mem_cons_self
    let events : List HostEvent :=
      draw.map (fun c => .dataWrite c.1 [c.2]) ++ [.regWrite s.config.regBase .word w]
    have hwrite : step { s with pending := .dataWrite c.1 [c.2] :: events } =
        .next { s with pending := events, mem := s.mem.write c.1 c.2 } :=
      step_dataWrite (a := c.1) (d := [c.2]) rfl hlt hdevice
    have hrest := ih { s with mem := s.mem.write c.1 c.2 } fun c' hc' => hdraw c' (List.mem_cons_of_mem c hc')
    exact (run_core_of_step hwrite).trans hrest

/-- Settles O47 by induction on the draw, whose first write the first step takes. -/
theorem raceDrawsAreRuns : Obligations.RaceDrawsAreRuns := run_writes_command

end Sys2Proof.Machine
end

section
/-! PROOFS. An agent that only reads (60_exceptions.md R222, 70_reset_and_hazards.md R245): what the outstanding events and the replies
hold has no part in any event's effect, and a read changes nothing but the replies. -/

namespace Sys2Proof.Machine

open Sys2Proof.Statements

/-! ### Events do not read the model's own fields -/

/-- `s` with other outstanding events and other replies. -/
def withRecord (p : List HostEvent) (r : List Reply) (s : State) : State := { s with pending := p, replies := r }

/-- The second state is the first but for the replies, with the outstanding events `p`. -/
def AgreeButReplies (p : List HostEvent) (t u : State) : Prop := ∃ r, u = withRecord p r t

theorem overData_simulates {R : State → State → Prop} {a n : Nat} {s s' : State}
    {k k' : Host.Outcome State Fault Refusal} (hconfig : s'.config = s.config) (hbody : Simulates R k k') :
    Simulates R (overData a n s k) (overData a n s' k') := by
  intro t h
  obtain ⟨hfits, hdevice, hk⟩ := overData_next _ _ _ _ _ h
  rw [overData_of_fits _ (hconfig ▸ hfits) (hconfig ▸ hdevice)]
  exact hbody t hk

theorem overWindow_simulates {R : State → State → Prop} {addr : Nat} {width : AccessWidth} {s s' : State}
    {k k' : Nat → Host.Outcome State Fault Refusal} (hconfig : s'.config = s.config)
    (hbody : ∀ offset, Simulates R (k offset) (k' offset)) :
    Simulates R (overWindow addr width s k) (overWindow addr width s' k') := by
  intro t h
  obtain ⟨hwindow, hword, hk⟩ := overWindow_next _ _ _ _ _ h
  rw [overWindow, hconfig, if_pos hwindow, if_pos hword]
  exact hbody _ t hk

/-- An abandoned command goes on exactly where the command would have (70_reset_and_hazards.md R231, log 12). -/
theorem abandonCommand_next_iff {w : Word} {landed : List Bool} {s t : State} :
    abandonCommand w landed s = .next t ↔
      (∃ t', issueCommand w s = .next t') ∧ t = { resetRegisters s with mem := memAfterAbandon w landed s } := by
  unfold abandonCommand
  cases issueCommand w s with
  | next t' => simp [eq_comm]
  | fault f => simp
  | refused x => simp

section Record

variable (p : List HostEvent) (r : List Reply) (s : State)

theorem exec_withRecord (i : Instr) :
    Simulates (fun t u => u = withRecord p r t) (exec i s) (exec i (withRecord p r s)) :=
  exec_simulates
    { range := rfl
      crc := fun _ => ⟨rfl, fun _ => rfl⟩
      chunkGood := rfl
      chunkBad := rfl
      stored := fun _ hd => ⟨hd, rfl⟩ }
    ⟨rfl, rfl, rfl⟩

theorem issueCommand_withRecord (w : Word) :
    Simulates (fun t u => u = withRecord p r t) (issueCommand w s) (issueCommand w (withRecord p r s)) := by
  cases hdecode : decode w with
  | none =>
    rw [issueCommand_of_illegal hdecode, issueCommand_of_illegal hdecode]
    exact simulates_next rfl
  | some i =>
    rw [issueCommand_of_decode hdecode, issueCommand_of_decode hdecode]
    exact exec_withRecord p r s i

theorem writeReg_withRecord (x : RegName) (v : Word) :
    writeReg x v (withRecord p r s) = withRecord p r (writeReg x v s) := by
  cases x <;> rfl

theorem writeOffset_withRecord (offset : Nat) (v : Word) :
    Simulates (fun t u => u = withRecord p r t) (writeOffset offset v s) (writeOffset offset v (withRecord p r s)) := by
  unfold writeOffset
  split
  · exact issueCommand_withRecord p r s v
  · exact simulates_next (writeReg_withRecord p r s _ v)
  · exact simulates_next rfl

theorem Simulates.agreeButReplies {o o' : Host.Outcome State Fault Refusal}
    (h : Simulates (fun t u => u = withRecord p r t) o o') : Simulates (AgreeButReplies p) o o' := by
  intro t ht
  obtain ⟨u, hu, hrecord⟩ := h t ht
  exact ⟨u, hu, r, hrecord⟩

/-- An event has the same effect whatever else is outstanding and whatever the host has read before. -/
theorem handle_withRecord (e : HostEvent) :
    Simulates (AgreeButReplies p) (handle e s) (handle e (withRecord p r s)) := by
  cases e with
  | regWrite addr width v =>
    exact overWindow_simulates rfl fun offset => (writeOffset_withRecord p r s offset v).agreeButReplies
  | regRead addr width => exact overWindow_simulates rfl fun _ => simulates_next ⟨_, rfl⟩
  | dataWrite a d => exact overData_simulates rfl (simulates_next ⟨_, rfl⟩)
  | dataRead a n => exact overData_simulates rfl (simulates_next ⟨_, rfl⟩)
  | reset => exact simulates_next ⟨_, rfl⟩
  | powerUp cells => exact simulates_next ⟨_, rfl⟩
  | resetDuring w l0 l1 l2 l3 =>
    intro t h
    obtain ⟨⟨t', ht'⟩, rfl⟩ := abandonCommand_next_iff.mp h
    obtain ⟨u', hu', _⟩ := issueCommand_withRecord p r s w t' ht'
    exact ⟨_, abandonCommand_next_iff.mpr ⟨⟨u', hu'⟩, rfl⟩, _, rfl⟩

end Record

/-! ### Reads -/

theorem handle_read {e : HostEvent} {s t : State} (he : isRead e = true) (h : handle e s = .next t) :
    ∃ r, t = withRecord s.pending r s := by
  cases e with
  | regRead addr width =>
    obtain ⟨_, _, hk⟩ := overWindow_next _ _ _ _ _ (by simpa only [handle, hostRegRead] using h)
    exact ⟨_, (Host.Outcome.next.inj hk).symm⟩
  | dataRead a n =>
    obtain ⟨_, _, hk⟩ := overData_next _ _ _ _ _ (by simpa only [handle, hostDataRead] using h)
    exact ⟨_, (Host.Outcome.next.inj hk).symm⟩
  | _ => cases he

/-! ### Interleavings -/

theorem with_own_pending {s : State} {p : List HostEvent} (h : s.pending = p) : { s with pending := p } = s := by
  rw [← h]

/-- The run over an interleaving and the run without the reader go on together, from states that differ in the outstanding events
and the replies alone. -/
theorem run_without_reader {xs ys zs : List HostEvent} (hzs : Interleaving xs ys zs)
    (hys : ∀ e ∈ ys, isRead e = true) : ∀ (s t : State) (r : List Reply),
    Host.Core.run core zs.length { s with pending := zs } = .next t →
    ∃ u, Host.Core.run core xs.length (withRecord xs r s) = .next u ∧
      { t with replies := [] } = { u with replies := [] } := by
  induction hzs with
  | done =>
    intro s t r h
    cases h
    exact ⟨_, rfl, rfl⟩
  | @left x xs ys zs hzs ih =>
    intro s t r h
    obtain ⟨s', hstep, hrun⟩ := step_next_of_run_core (s := { s with pending := x :: zs }) h
    have hhandle : handle x { s with pending := zs } = .next s' := (step_event s x zs).symm.trans hstep
    have hrest : { s' with pending := zs } = s' := with_own_pending (handle_config_pending hhandle).2
    obtain ⟨_, hhandle', r', rfl⟩ := handle_withRecord xs r _ x s' hhandle
    obtain ⟨u, hrun', hagree⟩ := ih hys s' t r' ((congrArg (Host.Core.run core zs.length) hrest).trans hrun)
    have hstep' : step (withRecord (x :: xs) r s) = .next (withRecord xs r' s') :=
      (step_pending _ x xs rfl).trans hhandle'
    exact ⟨u, (run_core_of_step hstep').trans hrun', hagree⟩
  | @right y xs ys zs hzs ih =>
    intro s t r h
    obtain ⟨s', hstep, hrun⟩ := step_next_of_run_core (s := { s with pending := y :: zs }) h
    have hhandle : handle y { s with pending := zs } = .next s' := (step_event s y zs).symm.trans hstep
    obtain ⟨q, rfl⟩ := handle_read (hys y List.mem_cons_self) hhandle
    exact ih (fun e he => hys e (List.mem_cons_of_mem y he)) (withRecord zs q s) t r hrun

/-- Settles O48 by induction on the interleaving. -/
theorem readersDoNotDisturb : Obligations.ReadersDoNotDisturb :=
  fun s t _ _ _ hzs hys h => run_without_reader hzs hys s t s.replies h

end Sys2Proof.Machine
end

section
/-! PROOFS. Reset, power-up, and reset during a command (70_reset_and_hazards.md R230, R231). -/

namespace Sys2Proof.Machine

open Sys2Proof.Statements

/-! ### Power-up -/

/-- One cell of the power-up contents: it is dropped at or above the memory's size (log 13). -/
def writeCell (n : Nat) (m : Memory) (c : Host.Cell) : Memory := if c.1 < n then m.write c.1 c.2 else m

theorem ofCells_eq_foldl (n : Nat) (cells : List Host.Cell) : Memory.ofCells n cells = cells.foldl (writeCell n) [] := rfl

theorem read_writeCell_other (n : Nat) (m : Memory) {c : Host.Cell} {a : Nat} (h : a ≠ c.1) :
    (writeCell n m c).read a = m.read a := by
  unfold writeCell
  split
  · exact read_write_other m c.2 h
  · rfl

theorem read_foldl_writeCell_of_notMem (n : Nat) (m : Memory) {cells : List Host.Cell} {a : Nat}
    (h : a ∉ cells.map (fun c => c.1)) : (cells.foldl (writeCell n) m).read a = m.read a := by
  induction cells generalizing m with
  | nil => rfl
  | cons c cells ih =>
    simp only [List.map_cons, List.mem_cons, not_or] at h
    obtain ⟨hhead, htail⟩ := h
    rw [List.foldl_cons, ih _ htail, read_writeCell_other n m hhead]

/-- With no address listed twice every cell below the memory's size stands in the memory. -/
theorem read_foldl_writeCell (n : Nat) (m : Memory) {cells : List Host.Cell}
    (hnodup : (cells.map (fun c => c.1)).Nodup) {c : Host.Cell} (hc : c ∈ cells) (hlt : c.1 < n) :
    (cells.foldl (writeCell n) m).read c.1 = c.2 := by
  induction cells generalizing m with
  | nil => cases hc
  | cons d cells ih =>
    rw [List.map_cons, List.nodup_cons] at hnodup
    obtain ⟨hhead, htail⟩ := hnodup
    rw [List.foldl_cons]
    rcases List.mem_cons.mp hc with rfl | hc
    · rw [read_foldl_writeCell_of_notMem n _ hhead, writeCell, if_pos hlt, read_write_same]
    · exact ih _ htail hc

theorem read_ofCells (n : Nat) {cells : List Host.Cell} (hnodup : (cells.map (fun c => c.1)).Nodup)
    {c : Host.Cell} (hc : c ∈ cells) (hlt : c.1 < n) : (Memory.ofCells n cells).read c.1 = c.2 := by
  rw [ofCells_eq_foldl]
  exact read_foldl_writeCell n [] hnodup hc hlt

/-- Settles O50: the two events by their handlers, and the power-up contents cell by cell. -/
theorem resetClearsRegistersOnly : Obligations.ResetClearsRegistersOnly := fun s rest cells =>
  ⟨step_event s _ rest, Memory.ofCells s.config.memSize cells, step_event s _ rest,
    fun hnodup _ hc hlt => read_ofCells _ hnodup hc hlt⟩

/-! ### Reset during a command -/

/-- Without devices every word written to `CMD` goes on, and so does a reset during it. -/
theorem step_resetDuring {s : State} (hnone : s.config.devices = []) (w : Word) (l0 l1 l2 l3 : Bool)
    (rest : List HostEvent) :
    step { s with pending := .resetDuring w l0 l1 l2 l3 :: rest } =
      .next (zeroed { s with pending := rest, mem := memAfterAbandon w [l0, l1, l2, l3] s }) := by
  let u : State := { s with pending := rest }
  have hgoes : ∃ t, issueCommand w u = .next t := by
    cases hdecode : decode w with
    | none => exact ⟨_, issueCommand_of_illegal hdecode u⟩
    | some i =>
      rw [issueCommand_of_decode hdecode]
      exact commandsAlwaysComplete i u hnone
  exact (step_event s _ rest).trans (abandonCommand_next_iff.mpr ⟨hgoes, rfl⟩)

theorem memAfterAbandon_of_store {i : Instr} {s : State} {d : List Byte} (landed : List Bool)
    (hd : storedBytes i s.result = some d) (hfits : s.addr.toNat + 4 ≤ s.config.memSize) :
    memAfterAbandon (encode i) landed s = s.mem.writeLanded s.addr.toNat (d.zip landed) := by
  simp [memAfterAbandon, hd, inRange, hfits]

/-- Where no store fits, no byte changes. -/
theorem memAfterAbandon_of_no_store {w : Word} {s : State} (landed : List Bool)
    (h : (decode w ≠ some .storeBe ∧ decode w ≠ some .storeLe) ∨ s.config.memSize < s.addr.toNat + 4) :
    memAfterAbandon w landed s = s.mem := by
  unfold memAfterAbandon
  split
  next d hd =>
    obtain ⟨i, hdecode, hstored⟩ := Option.bind_eq_some_iff.mp hd
    have hi := (isSome_storedBytes_iff i s.result).mp (Option.isSome_of_eq_some hstored)
    have hover : s.config.memSize < s.addr.toNat + 4 := by
      refine h.resolve_left fun ⟨hbe, hle⟩ => ?_
      rcases hi with rfl | rfl
      · exact hbe hdecode
      · exact hle hdecode
    rw [if_neg fun hfits => not_le.mpr hover ((inRange_iff _ _ _).mp hfits)]
  next => rfl

/-- Each byte of an interrupted write is new where its flag is set, and old elsewhere. -/
theorem read_writeLanded_zip (m : Memory) (a : Nat) {d : List Byte} {landed : List Bool} {k : Nat}
    (hd : k < d.length) (hl : k < landed.length) :
    (m.writeLanded a (d.zip landed)).read (a + k) =
      if landed.getD k false then d.getD k 0#8 else m.read (a + k) := by
  rw [read_writeLanded_inside m a _ k (by rw [List.length_zip]; exact lt_min hd hl), List.getElem_zip,
    List.getD_eq_getElem _ _ hd, List.getD_eq_getElem _ _ hl]

/-- Settles O51: the four flags stand beside the four bytes of a store. -/
theorem resetDuringCommand : Obligations.ResetDuringCommand := by
  intro s l0 l1 l2 l3 rest hnone
  refine ⟨fun i d hi hfits => ?_, fun w hw => ?_⟩
  · have hstored : storedBytes i s.result = some d ∧ d.length = 4 := by
      rcases hi with ⟨rfl, rfl⟩ | ⟨rfl, rfl⟩
      · exact ⟨rfl, rfl⟩
      · exact ⟨rfl, rfl⟩
    obtain ⟨hd, hlength⟩ := hstored
    have hstep := step_resetDuring hnone (encode i) l0 l1 l2 l3 rest
    rw [memAfterAbandon_of_store _ hd hfits] at hstep
    refine ⟨_, hstep, fun k hk => read_writeLanded_zip _ _ (hlength ▸ hk) hk, fun x hx => ?_⟩
    exact read_writeLanded_outside _ _ _ x (by simpa [hlength] using hx)
  · rw [step_resetDuring hnone, memAfterAbandon_of_no_store _ hw]

end Sys2Proof.Machine
end
